-- ==== Sys2Proof/Word.lean ====
section
/-! DEFINITION. The bit-vector types of the block: bytes of data memory and 32-bit registers
(spec/10_state.md R20, spec/20_memory.md R62). -/

namespace Sys2Proof

/-- One byte of data memory, one 8-bit sample (00_scope.md R16, 20_memory.md R62). -/
abbrev Byte := BitVec 8

/-- One 32-bit register, or the write or read data of one host transaction (10_state.md R20). -/
abbrev Word := BitVec 32

end Sys2Proof
end

