-- ==== Sys2Proof/Syntax.lean ====
section
/-! DEFINITION. The operations of the block, one constructor per row of spec/opcode_table.json
(spec/30_encoding.md R99), and the host transaction that encodes one of them (R90, R91). -/

namespace Sys2Proof

/-- The three filter kinds (00_scope.md R2). -/
inductive FilterKind where
  | iir
  | box
  | sharpen
  deriving DecidableEq, Repr

/-- One host transaction on the register window, format T or TC (30_encoding.md R90, R91): the
WRITE bit and the OFFSET field of the 13-bit header, the bus's SIZE in bytes, and WDATA, which
means something only for a write. -/
structure Transaction where
  write  : Bool
  offset : BitVec 12
  size   : Nat
  wdata  : Word
  deriving DecidableEq, Repr

/-- The operations of 30_encoding.md R99. A read returns RDATA and has no operand but, for the
reserved space, its offset. -/
inductive Instr where
  | rdId
  | wrId (wdata : Word)
  | rdCtrl
  | wrCtrl (wdata : Word)
  | rdStatus
  | wrStatus (wdata : Word)
  | rdCmd
  | cmdIir
  | cmdBox (fsize : BitVec 8)
  | cmdSharpen (fsize : BitVec 8)
  | wrCmd (wdata : Word)
  | rdWidth
  | wrWidth (wdata : Word)
  | rdHeight
  | wrHeight (wdata : Word)
  | rdSrcBase
  | wrSrcBase (wdata : Word)
  | rdDstBase
  | wrDstBase (wdata : Word)
  | rdLambda
  | wrLambda (wdata : Word)
  | rdRsvd (offset : BitVec 12)
  | wrRsvd (offset : BitVec 12) (wdata : Word)
  | illegalAccess (write : Bool) (offset : BitVec 12) (size : Nat) (wdata : Word)
  deriving DecidableEq, Repr

/-- The operation is carried by a write transaction (WRITE = 1 in 30_encoding.md R99). -/
def Instr.isWrite : Instr → Bool
  | .rdId | .rdCtrl | .rdStatus | .rdCmd | .rdWidth | .rdHeight | .rdSrcBase | .rdDstBase
  | .rdLambda | .rdRsvd _ => false
  | .wrId _ | .wrCtrl _ | .wrStatus _ | .cmdIir | .cmdBox _ | .cmdSharpen _ | .wrCmd _
  | .wrWidth _ | .wrHeight _ | .wrSrcBase _ | .wrDstBase _ | .wrLambda _ | .wrRsvd _ _ => true
  | .illegalAccess w _ _ _ => w

end Sys2Proof
end

