-- ==== Sys2Proof/WellFormed.lean ====
section
/-! DEFINITION. Which operands an operation may carry: the WDATA and OFFSET constraints of
spec/30_encoding.md R99, as a Bool. -/

namespace Sys2Proof

/-- OFFSET[1:0] = 0 (20_memory.md R65). -/
def offsetAligned (o : BitVec 12) : Bool := o.toNat % 4 == 0

/-- An offset of the reserved space: 0x024 to 0xFFC with OFFSET[1:0] = 0 (10_state.md R30). -/
def offsetReserved (o : BitVec 12) : Bool := 0x024 ≤ o.toNat && offsetAligned o

/-- The three filter rows of 30_encoding.md R99 match this WDATA: IIR is the word 0 exactly, BOX
and SHARPEN leave only FSIZE = WDATA[15:8] free. -/
def isFilterWord (v : Word) : Bool :=
  v == 0 || v &&& 0xFFFF00FF#32 == 1#32 || v &&& 0xFFFF00FF#32 == 2#32

/-- The operands meet the constraints of the operation's row. A read carries no WDATA; the
model's canonical transaction of a read holds 0 there (notes/assumptions/19). -/
def Instr.wf : Instr → Bool
  | .wrCmd v => !isFilterWord v
  | .rdRsvd o => offsetReserved o
  | .wrRsvd o _ => offsetReserved o
  | .illegalAccess w o size v => (size != 4 || !offsetAligned o) && (w || v == 0)
  | .rdId | .wrId _ | .rdCtrl | .wrCtrl _ | .rdStatus | .wrStatus _ | .rdCmd | .cmdIir
  | .cmdBox _ | .cmdSharpen _ | .rdWidth | .wrWidth _ | .rdHeight | .wrHeight _ | .rdSrcBase
  | .wrSrcBase _ | .rdDstBase | .wrDstBase _ | .rdLambda | .wrLambda _ => true

end Sys2Proof
end

