-- ==== Sys2Proof/Decode.lean ====
section
/-! DEFINITION. From transactions to operations and back (spec/30_encoding.md R90 to R103). The
decoder is total: every header and size names exactly one operation (R92). The second half numbers
transactions as spec/opcode_table.json does. -/

namespace Sys2Proof

/-! ## Fields -/

/-- The byte offsets of the named registers (10_state.md R20). -/
def offId : BitVec 12 := 0x000#12
def offCtrl : BitVec 12 := 0x004#12
def offStatus : BitVec 12 := 0x008#12
def offCmd : BitVec 12 := 0x00C#12
def offWidth : BitVec 12 := 0x010#12
def offHeight : BitVec 12 := 0x014#12
def offSrcBase : BitVec 12 := 0x018#12
def offDstBase : BitVec 12 := 0x01C#12
def offLambda : BitVec 12 := 0x020#12

/-- FSIZE, bits 15:8 of a command word (30_encoding.md R93). -/
def wordFsize (v : Word) : BitVec 8 := v.extractLsb' 8 8

/-- OP, bits 1:0 of a command word (30_encoding.md R93). -/
def wordOp (v : Word) : BitVec 2 := v.extractLsb' 0 2

/-- RSV0, bits 7:2 of a command word (30_encoding.md R93). -/
def wordRsv0 (v : Word) : BitVec 6 := v.extractLsb' 2 6

/-- RSV1, bits 31:16 of a command word (30_encoding.md R93). -/
def wordRsv1 (v : Word) : BitVec 16 := v.extractLsb' 16 16

/-- The command word with OP = `op`, FSIZE = `fsize` and both reserved fields 0, most significant
field first (30_encoding.md R93). -/
def cmdWord (op : BitVec 2) (fsize : BitVec 8) : Word := 0#16 ++ fsize ++ 0#6 ++ op

/-- The WDATA of each filter row (30_encoding.md R99). -/
def iirWord : Word := 0x00000000#32
def boxWord (fsize : BitVec 8) : Word := cmdWord 0b01#2 fsize
def sharpenWord (fsize : BitVec 8) : Word := cmdWord 0b10#2 fsize

/-- The 13-bit header: WRITE in bit 12, OFFSET in bits 11:0 (30_encoding.md R91). -/
def headerOf (t : Transaction) : BitVec 13 := BitVec.cons t.write t.offset

/-! ## Decoding -/

/-- The read rows of 30_encoding.md R99 for an aligned offset; offsets past LAMBDA are the reserved
space. -/
def decodeRead (o : BitVec 12) : Instr :=
  if o = offId then .rdId
  else if o = offCtrl then .rdCtrl
  else if o = offStatus then .rdStatus
  else if o = offCmd then .rdCmd
  else if o = offWidth then .rdWidth
  else if o = offHeight then .rdHeight
  else if o = offSrcBase then .rdSrcBase
  else if o = offDstBase then .rdDstBase
  else if o = offLambda then .rdLambda
  else .rdRsvd o

/-- A write to CMD: the three filter rows (priority 1), then WR.CMD (priority 2), which takes every
other word (30_encoding.md R99). -/
def decodeCmd (v : Word) : Instr :=
  if v = 0 then .cmdIir
  else if v &&& 0xFFFF00FF#32 = 1#32 then .cmdBox (wordFsize v)
  else if v &&& 0xFFFF00FF#32 = 2#32 then .cmdSharpen (wordFsize v)
  else .wrCmd v

/-- The write rows of 30_encoding.md R99 for an aligned offset. -/
def decodeWrite (o : BitVec 12) (v : Word) : Instr :=
  if o = offId then .wrId v
  else if o = offCtrl then .wrCtrl v
  else if o = offStatus then .wrStatus v
  else if o = offCmd then decodeCmd v
  else if o = offWidth then .wrWidth v
  else if o = offHeight then .wrHeight v
  else if o = offSrcBase then .wrSrcBase v
  else if o = offDstBase then .wrDstBase v
  else if o = offLambda then .wrLambda v
  else .wrRsvd o v

/-- The operation a transaction is (30_encoding.md R92): the illegal-access test comes first, then
WRITE and OFFSET select the row. WDATA of a read is not looked at. -/
def decode (t : Transaction) : Instr :=
  if t.size ≠ 4 ∨ offsetAligned t.offset = false then
    .illegalAccess t.write t.offset t.size (if t.write then t.wdata else 0)
  else if t.write then decodeWrite t.offset t.wdata
  else decodeRead t.offset

/-! ## Encoding -/

/-- A 4-byte read, format T. -/
def readAt (o : BitVec 12) : Transaction := ⟨false, o, 4, 0⟩

/-- A 4-byte write, format TC. -/
def writeAt (o : BitVec 12) (v : Word) : Transaction := ⟨true, o, 4, v⟩

/-- The transaction of an operation, from the opcode map of 30_encoding.md R99. -/
def encode : Instr → Transaction
  | .rdId => readAt 0x000#12
  | .wrId v => writeAt 0x000#12 v
  | .rdCtrl => readAt 0x004#12
  | .wrCtrl v => writeAt 0x004#12 v
  | .rdStatus => readAt 0x008#12
  | .wrStatus v => writeAt 0x008#12 v
  | .rdCmd => readAt 0x00C#12
  | .cmdIir => writeAt 0x00C#12 iirWord
  | .cmdBox f => writeAt 0x00C#12 (boxWord f)
  | .cmdSharpen f => writeAt 0x00C#12 (sharpenWord f)
  | .wrCmd v => writeAt 0x00C#12 v
  | .rdWidth => readAt 0x010#12
  | .wrWidth v => writeAt 0x010#12 v
  | .rdHeight => readAt 0x014#12
  | .wrHeight v => writeAt 0x014#12 v
  | .rdSrcBase => readAt 0x018#12
  | .wrSrcBase v => writeAt 0x018#12 v
  | .rdDstBase => readAt 0x01C#12
  | .wrDstBase v => writeAt 0x01C#12 v
  | .rdLambda => readAt 0x020#12
  | .wrLambda v => writeAt 0x020#12 v
  | .rdRsvd o => readAt o
  | .wrRsvd o v => writeAt o v
  | .illegalAccess w o size v => ⟨w, o, size, v⟩

/-! ## The numbering of spec/opcode_table.json -/

/-- Why a numbered word is no transaction. -/
inductive Reject where
  /-- A bit above the header's bit 12 (format T) or bit 44 (format TC) is set. -/
  | strayBits
  /-- A 45-bit word whose header has WRITE = 0: format TC is the form of a write (R90). -/
  | readWithData
  deriving DecidableEq, Repr

/-- The transaction whose bits are `w`. A word of at most 32 bits is format T, the 13-bit header; a
longer one is format TC, the header in bits 44:32 and WDATA in bits 31:0 (30_encoding.md R90). SIZE
has no bits in either and is 4, as every row of the table says. -/
def transactionOfBits (nbits w : Nat) : Except Reject Transaction :=
  if nbits ≤ 32 then
    if w < 2 ^ 13 then .ok ⟨decide (w / 2 ^ 12 = 1), BitVec.ofNat 12 w, 4, 0⟩
    else .error .strayBits
  else if w < 2 ^ 45 then
    if w / 2 ^ 44 = 1 then .ok ⟨true, BitVec.ofNat 12 (w / 2 ^ 32), 4, BitVec.ofNat 32 w⟩
    else .error .readWithData
  else .error .strayBits

/-- The operation in the numbered word, or why there is none. -/
def decodeBits (nbits w : Nat) : Except Reject Instr :=
  match transactionOfBits nbits w with
  | .ok t => .ok (decode t)
  | .error e => .error e

/-- The operation the decoder reads from a word numbered as spec/opcode_table.json numbers it. -/
def decodeTableWord (nbits w : Nat) : Option Instr :=
  match decodeBits nbits w with
  | .ok i => some i
  | .error _ => none

/-- The transaction's number in its format: the header in format T (a read), {header, WDATA} in
format TC (a write) (30_encoding.md R90). -/
def numberOf (t : Transaction) : Nat :=
  if t.write then (headerOf t).toNat * 2 ^ 32 + t.wdata.toNat else (headerOf t).toNat

/-- The operation's word as spec/opcode_table.json numbers it. -/
def tableWord (i : Instr) : Nat := numberOf (encode i)

/-- How many bits, in whole bytes, that word has: 13 in format T, 45 in format TC. -/
def tableBits (i : Instr) : Nat := if i.isWrite then 48 else 16

/-! ## The opcode table -/

/-- One row of spec/opcode_table.json: a word is of the row when `w &&& mask = match`. -/
structure Row where
  mnemonic : String
  isTC     : Bool
  mtch     : Nat
  mask     : Nat
  priority : Nat
  deriving DecidableEq, Repr

/-- The rows with a match and a mask, in the table's order. ILLEGAL.ACCESS is the test that comes
before them (30_encoding.md R92). -/
def opcodeTable : List Row :=
  [⟨"RD.ID", false, 0x0, 0x1FFF, 1⟩, ⟨"WR.ID", true, 0x100000000000, 0x1FFF00000000, 1⟩,
   ⟨"RD.CTRL", false, 0x4, 0x1FFF, 1⟩, ⟨"WR.CTRL", true, 0x100400000000, 0x1FFF00000000, 1⟩,
   ⟨"RD.STATUS", false, 0x8, 0x1FFF, 1⟩, ⟨"WR.STATUS", true, 0x100800000000, 0x1FFF00000000, 1⟩,
   ⟨"RD.CMD", false, 0xC, 0x1FFF, 1⟩] ++
  [⟨"CMD.IIR", true, 0x100C00000000, 0x1FFFFFFFFFFF, 1⟩,
   ⟨"CMD.BOX", true, 0x100C00000001, 0x1FFFFFFF00FF, 1⟩,
   ⟨"CMD.SHARPEN", true, 0x100C00000002, 0x1FFFFFFF00FF, 1⟩,
   ⟨"WR.CMD", true, 0x100C00000000, 0x1FFF00000000, 2⟩] ++
  [⟨"RD.WIDTH", false, 0x10, 0x1FFF, 1⟩, ⟨"WR.WIDTH", true, 0x101000000000, 0x1FFF00000000, 1⟩,
   ⟨"RD.HEIGHT", false, 0x14, 0x1FFF, 1⟩, ⟨"WR.HEIGHT", true, 0x101400000000, 0x1FFF00000000, 1⟩,
   ⟨"RD.SRC_BASE", false, 0x18, 0x1FFF, 1⟩,
   ⟨"WR.SRC_BASE", true, 0x101800000000, 0x1FFF00000000, 1⟩,
   ⟨"RD.DST_BASE", false, 0x1C, 0x1FFF, 1⟩,
   ⟨"WR.DST_BASE", true, 0x101C00000000, 0x1FFF00000000, 1⟩] ++
  [⟨"RD.LAMBDA", false, 0x20, 0x1FFF, 1⟩, ⟨"WR.LAMBDA", true, 0x102000000000, 0x1FFF00000000, 1⟩,
   ⟨"RD.RSVD", false, 0x0, 0x1003, 3⟩, ⟨"WR.RSVD", true, 0x100000000000, 0x100300000000, 3⟩]

/-- The row's pattern fits the transaction. -/
def Row.fits (r : Row) (t : Transaction) : Bool :=
  r.isTC == t.write && numberOf t &&& r.mask == r.mtch

/-- The mnemonic of an operation's row in spec/opcode_table.json. -/
def Instr.mnemonic : Instr → String
  | .rdId => "RD.ID"
  | .wrId _ => "WR.ID"
  | .rdCtrl => "RD.CTRL"
  | .wrCtrl _ => "WR.CTRL"
  | .rdStatus => "RD.STATUS"
  | .wrStatus _ => "WR.STATUS"
  | .rdCmd => "RD.CMD"
  | .cmdIir => "CMD.IIR"
  | .cmdBox _ => "CMD.BOX"
  | .cmdSharpen _ => "CMD.SHARPEN"
  | .wrCmd _ => "WR.CMD"
  | .rdWidth => "RD.WIDTH"
  | .wrWidth _ => "WR.WIDTH"
  | .rdHeight => "RD.HEIGHT"
  | .wrHeight _ => "WR.HEIGHT"
  | .rdSrcBase => "RD.SRC_BASE"
  | .wrSrcBase _ => "WR.SRC_BASE"
  | .rdDstBase => "RD.DST_BASE"
  | .wrDstBase _ => "WR.DST_BASE"
  | .rdLambda => "RD.LAMBDA"
  | .wrLambda _ => "WR.LAMBDA"
  | .rdRsvd _ => "RD.RSVD"
  | .wrRsvd _ _ => "WR.RSVD"
  | .illegalAccess _ _ _ _ => "ILLEGAL.ACCESS"

end Sys2Proof
end

