-- ==== Sys2Proof/Config.lean ====
section
/-! DEFINITION. What this hardware fixes (spec/00_scope.md R8) and the free values, which the spec
leaves open (spec/93_implementation_defined.md U5, U7, U9, U10). -/

namespace Sys2Proof.Config

/-- The read-only ID register (10_state.md R21). -/
def idValue : Word := 0x494D4601#32

/-- Bytes of the register window, REG_WINDOW (00_scope.md R8). -/
def regWindow : Nat := 4096

/-- Bytes of the data space, 2^ADDR_BITS (20_memory.md R61). -/
def dataSpace : Nat := 4294967296

/-- The IIR coefficients 0.01, 0.9 and -0.81 over the common denominator `iirScale`
(00_scope.md R8, 42_filter_commands.md R186). -/
def iirB : Int := 1
def iirA : Int := 90
def iirC : Int := -81
def iirScale : Int := 100

/-- The kernel sides that FSIZE = 0 selects (00_scope.md R8, 41_command_sequencer.md R153). -/
def boxDefaultK : Nat := 9
def sharpenDefaultK : Nat := 5

/-- FREE VALUE. The byte that address `addr` holds, or that a read of it returns, on the
`occasion`-th time the spec leaves it unspecified: the output plane after an abort (U7) or a reset
during a job (U9), and a host read of an output-plane byte while BUSY = 1 (U5). -/
opaque freeByte : (occasion addr : Nat) → Byte

/-- FREE VALUE. The content of the line buffer at a coordinate that the running job has not
computed (10_state.md R39, U10). No run from reset reads it. -/
opaque lineBuffer : (occasion row col : Nat) → Byte

end Sys2Proof.Config
end

