-- ==== Sys2Proof/Machine/State.lean ====
section
/-! DEFINITION. The state of the block, of the data memory it works on, of the platform around it
and of the outside world's pending moves (spec/10_state.md), as plain data, and its value after
reset. -/

namespace Sys2Proof.Machine

/-- Why the machine stops with a fault. -/
inductive Fault where
  /-- Raised by an engine access to a byte address of 2^32 or more, which the data space does not
  have (20_memory.md R61). SAFE: the range check of every accepted command rules it out (R155), so
  only a state that no run reaches raises it (notes/assumptions/13). -/
  | noSuchAddress
  deriving DecidableEq, Repr

/-- Why the machine refuses to go on. -/
inductive Refusal where
  /-- Raised by exec for an operation that has no meaning yet. SAFE. -/
  | notModelled (mnemonic : String)
  /-- Raised by a step in which an agent other than the engine writes a byte of the running job's
  input or output plane: "A model refuses such a run rather than give it values" (20_memory.md R78,
  93_implementation_defined.md U6). SAFE. -/
  | hostInterference
  deriving DecidableEq, Repr

/-- The direction of a data access (20_memory.md R67). -/
inductive Dir where
  | read
  | write
  deriving DecidableEq, Repr

/-- A run of data addresses that answer accesses in one direction with a bus error. -/
structure Hole where
  dir  : Dir
  base : Nat
  size : Nat
  deriving DecidableEq, Repr

/-- The parameters the platform fixes: REG_BASE (20_memory.md R60) and, as the addresses where it
is false, the predicate MemAdmit (R67). No step changes them (70_reset_and_hazards.md R252). -/
structure Platform where
  regBase : Nat
  holes   : List Hole
  deriving DecidableEq, Repr

/-- A coordinate of a plane: row i, column j (00_scope.md R14). -/
structure Coord where
  row : Nat
  col : Nat
  deriving DecidableEq, Repr

/-- The job snapshot JOB (10_state.md R35). -/
structure Job where
  op  : FilterKind
  k   : Nat
  r   : Nat
  l   : Int
  w   : BitVec 16
  h   : BitVec 16
  src : Word
  dst : Word
  deriving DecidableEq, Repr

/-- One entry of the output history O: the value written for a coordinate (10_state.md R37). -/
structure HistoryCell where
  at_   : Coord
  value : Byte
  deriving DecidableEq, Repr

/-- Data memory: (address, byte) pairs in canonical form (20_memory.md R61). -/
abbrev Memory := List Host.Cell

/-- A host transaction as it stands on the host's bus: a byte address of the host's address space
instead of an offset (30_encoding.md R91). -/
structure BusAccess where
  addr  : Nat
  write : Bool
  size  : Nat
  wdata : Word
  deriving DecidableEq, Repr

/-- One move of the world outside the engine, or a turn of the engine itself. A run is a list of
them, so every interleaving of host and engine is a list (40_register_access.md R141,
93_implementation_defined.md U17). -/
inductive Input where
  /-- The host performs one bus access. -/
  | access (a : BusAccess)
  /-- The host, or any other agent, writes one byte of data memory (`mw.b`, 30_encoding.md R104). -/
  | memWrite (addr : Word) (value : Byte)
  /-- The host reads one byte of data memory (`mr.b`, R104). -/
  | memRead (addr : Word)
  /-- The host waits until irq = 1 (`wfi`, R104). -/
  | waitIrq
  /-- The host polls STATUS until BUSY reads 0 (`wait`, R105). -/
  | waitIdle
  /-- The engine has its turn. -/
  | engine
  /-- The reset input is asserted (70_reset_and_hazards.md R250). -/
  | reset
  deriving DecidableEq, Repr

/-- What the host's last operation was answered with. -/
inductive Answer where
  /-- Nothing has been answered since reset. -/
  | none
  /-- A register write was performed. -/
  | done
  /-- A register read returned RDATA (30_encoding.md R91). -/
  | data (rdata : Word)
  /-- The access got the bus error response of HostBusError (60_exceptions.md R222). -/
  | busError
  /-- A data memory read returned a byte. -/
  | byte (value : Byte)
  deriving DecidableEq, Repr

/-- The codes of STATUS.ERR_CODE (60_exceptions.md R221). -/
inductive ErrCode where
  | none
  | busy
  | rsvd
  | badOp
  | badFsize
  | badDim
  | badRange
  | overlap
  | bus
  deriving DecidableEq, Repr

/-- The state. The ID register is a constant (`Config.idValue`), the phase is `busy` (R34) and irq is
computed (R33), so none of them is stored. -/
structure State where
  /-- CTRL[0] IRQ_EN (10_state.md R22). -/
  irqEn   : Bool
  /-- STATUS[0] BUSY, which is also the phase: RUNNING when set, else IDLE (R23, R34). -/
  busy    : Bool
  /-- STATUS[1] DONE (R23). -/
  done    : Bool
  /-- STATUS[2] ERR (R23). -/
  err     : Bool
  /-- STATUS[7:4] ERR_CODE (R23). -/
  errCode : BitVec 4
  /-- CMD_LAST, the last accepted command word, which a read of CMD returns (R25). -/
  cmdLast : Word
  /-- WIDTH[15:0] W (R26). -/
  width   : BitVec 16
  /-- HEIGHT[15:0] H (R27). -/
  height  : BitVec 16
  /-- SRC_BASE (R28). -/
  srcBase : Word
  /-- DST_BASE (R28). -/
  dstBase : Word
  /-- LAMBDA (R29). -/
  lambda  : Word
  /-- The job snapshot JOB (R35). -/
  job     : Job
  /-- The scan position pos (R36). -/
  pos     : Coord
  /-- The output history O, newest entry first (R37). -/
  history : List HistoryCell
  /-- Data memory (20_memory.md R61). -/
  mem     : Memory
  /-- The platform's parameters (20_memory.md R60, R67). -/
  platform : Platform
  /-- What the host's last operation was answered with: RDATA or a bus error (30_encoding.md R91,
  60_exceptions.md R222). -/
  answer  : Answer
  /-- What the host, the other agents and the engine's schedule do next, first move first. -/
  inputs  : List Input
  /-- How many times a free value has been taken: the model's own field, not the spec's. -/
  freeCount : Nat
  deriving DecidableEq, Repr

/-- After reset (10_state.md R38, R39; 70_reset_and_hazards.md R250). The spec gives no value to
JOB, pos, O, the data memory, the platform, the answer and the inputs: those values are the model's
(notes/assumptions/1, 2, 3, 5, 7, 8). -/
def State.reset : State where
  irqEn := false
  busy := false
  done := false
  err := false
  errCode := 0#4
  cmdLast := 0x00000000#32
  width := 0x0000#16
  height := 0x0000#16
  srcBase := 0x00000000#32
  dstBase := 0x00000000#32
  lambda := 0x00000000#32
  job := { op := .iir, k := 0, r := 0, l := 0, w := 0#16, h := 0#16, src := 0#32, dst := 0#32 }
  pos := ⟨0, 0⟩
  history := []
  mem := []
  platform := { regBase := 0, holes := [] }
  answer := .none
  inputs := []
  freeCount := 0

end Sys2Proof.Machine
end

