-- ==== Sys2Proof/Machine/Operands.lean ====
section
/-! DEFINITION. Operand assembly: register contents as numbers, plane addresses, the byte lanes of a
register (spec/30_encoding.md R94 to R98, spec/20_memory.md R62, R63). -/

namespace Sys2Proof.Machine

/-- sext_32: the word as a two's-complement number (00_scope.md R10). -/
def sext32 (v : Word) : Int := if v.toNat < 2 ^ 31 then v.toNat else (v.toNat : Int) - 2 ^ 32

/-- zext_32 of a 16-bit register field (00_scope.md R10). -/
def zext32 (v : BitVec 16) : Word := v.zeroExtend 32

/-- v[15:0], what WIDTH and HEIGHT keep of a written word (10_state.md R26, R27). -/
def low16 (v : Word) : BitVec 16 := v.extractLsb' 0 16

/-- (v = 1) as a bit in bit 0 of a word. -/
def boolWord (b : Bool) : Word := (BitVec.ofBool b).zeroExtend 32

/-- The kind that OP selects; OP = 11 is reserved (30_encoding.md R94). -/
def kindOfOp (op : BitVec 2) : Option FilterKind :=
  if op = 0b00#2 then some .iir
  else if op = 0b01#2 then some .box
  else if op = 0b10#2 then some .sharpen
  else none

/-- The number of samples of the job's planes, W * H. -/
def Job.count (j : Job) : Nat := j.w.toNat * j.h.toNat

/-- The address of sample (p, q) of the plane at `base` with rows of `w` bytes (20_memory.md R62). -/
def sampleAddr (base w p q : Nat) : Nat := base + p * w + q

/-- The address of input sample (p, q) of the job. -/
def Job.inAddr (j : Job) (p q : Nat) : Nat := sampleAddr j.src.toNat j.w.toNat p q

/-- The address of output sample (p, q) of the job. -/
def Job.outAddr (j : Job) (p q : Nat) : Nat := sampleAddr j.dst.toNat j.w.toNat p q

/-- `a` is one of the `n` bytes at `base`. -/
def inBytes (base n a : Nat) : Bool := base ≤ a && a < base + n

/-- `a` is a byte of the job's input plane. -/
def Job.inInput (j : Job) (a : Nat) : Bool := inBytes j.src.toNat j.count a

/-- `a` is a byte of the job's output plane. -/
def Job.inOutput (j : Job) (a : Nat) : Bool := inBytes j.dst.toNat j.count a

/-- Bits [8k+7:8k] of a register, the byte on lane k (20_memory.md R63). -/
def byteLane (v : Word) (k : Nat) : Byte := v.extractLsb' (8 * k) 8

/-- The byte that a 4-byte access at `offset` carrying `v` moves on the lane of the host's byte address
`addr`, if the access covers it: lane k belongs to REG_BASE + offset + k (20_memory.md R63). -/
def laneAt (p : Platform) (offset : BitVec 12) (v : Word) (addr : Nat) : Option Byte :=
  if inBytes (p.regBase + offset.toNat) 4 addr then
    some (byteLane v (addr - (p.regBase + offset.toNat)))
  else none

end Sys2Proof.Machine
end

