-- ==== Sys2Proof/Machine/Flags.lean ====
section
/-! DEFINITION. STATUS, its error codes, its write-one-to-clear bits and the interrupt output
(spec/10_state.md R22 to R24, R33; spec/60_exceptions.md R221, R230, R231). -/

namespace Sys2Proof.Machine

/-- The number of a code (60_exceptions.md R221); 9 to 15 are never recorded. -/
def ErrCode.number : ErrCode → BitVec 4
  | .none => 0#4
  | .busy => 1#4
  | .rsvd => 2#4
  | .badOp => 3#4
  | .badFsize => 4#4
  | .badDim => 5#4
  | .badRange => 6#4
  | .overlap => 7#4
  | .bus => 8#4

/-- CTRL as a read returns it: bits 31:1 read 0 (40_register_access.md R122). -/
def ctrlWord (s : State) : Word := boolWord s.irqEn

/-- STATUS as a read returns it: {24'b0, ERR_CODE, 1'b0, ERR, DONE, BUSY} (40_register_access.md
R124). -/
def statusWord (s : State) : Word :=
  0#24 ++ s.errCode ++ 0#1 ++ BitVec.ofBool s.err ++ BitVec.ofBool s.done ++ BitVec.ofBool s.busy

/-- The interrupt output, a level: irq = CTRL.IRQ_EN AND (STATUS.DONE OR STATUS.ERR) (10_state.md
R33). -/
def irq (s : State) : Bool := s.irqEn && (s.done || s.err)

/-- The W1C write of STATUS: bit 1 clears DONE, bit 2 clears ERR and ERR_CODE, every other bit is
ignored (40_register_access.md R125). -/
def clearStatus (v : Word) (s : State) : State :=
  { s with
    done := s.done && !v.getLsbD 1
    err := s.err && !v.getLsbD 2
    errCode := if v.getLsbD 2 then ErrCode.none.number else s.errCode }

/-- ERR <- 1 and ERR_CODE <- code; the code overwrites an earlier one (60_exceptions.md R223, R224). -/
def recordError (c : ErrCode) (s : State) : State :=
  { s with err := true, errCode := c.number }

end Sys2Proof.Machine
end

