-- ==== Sys2Proof/Machine/Ops.lean ====
section
/-! DEFINITION. The shared operations: data memory, the engine's MemRead and MemWrite, the output
history, and the block's three ways of reporting an error, which stand where a processor takes an
exception (spec/00_scope.md R12, R13; spec/60_exceptions.md R220 to R227, R232). -/

namespace Sys2Proof.Machine

/-! ## Data memory -/

/-- What an address that memory does not list reads as (notes/assumptions/1). -/
def unwrittenByte : Byte := 0#8

/-- The canonical form: addresses of the data space, strictly rising, and no entry equal to what an
unlisted address reads as. -/
def Memory.wf : Memory → Bool
  | [] => true
  | (a, v) :: t =>
    decide (a < Config.dataSpace) && v != unwrittenByte && t.all (fun c => decide (a < c.1)) &&
      Memory.wf t

/-- The byte at an address. -/
def Memory.get : Memory → Nat → Byte
  | [], _ => unwrittenByte
  | (b, v) :: t, a => if a = b then v else Memory.get t a

/-- List the byte `v` at address `a`. -/
def Memory.insert : Memory → Nat → Byte → Memory
  | [], a, v => [(a, v)]
  | (b, w) :: t, a, v =>
    if a < b then (a, v) :: (b, w) :: t
    else if a = b then (a, v) :: t
    else (b, w) :: Memory.insert t a v

/-- Take address `a` off the list. -/
def Memory.erase (m : Memory) (a : Nat) : Memory := m.filter (fun c => decide (c.1 ≠ a))

/-- Write one byte and keep the canonical form. -/
def Memory.set (m : Memory) (a : Nat) (v : Byte) : Memory :=
  if v = unwrittenByte then m.erase a else m.insert a v

/-- Give each of the `n` bytes at `base` an unspecified value (93_implementation_defined.md U7, U9):
the free values of this occasion. Addresses that the data space does not have hold no byte. -/
def Memory.scramble (occasion base : Nat) : Nat → Memory → Memory
  | 0, m => m
  | n + 1, m =>
    let m' := Memory.scramble occasion base n m
    if base + n < Config.dataSpace then
      m'.set (base + n) (Config.freeByte occasion (base + n))
    else m'

/-! ## The engine's accesses -/

/-- The hole takes in this access. -/
def Hole.covers (h : Hole) (d : Dir) (a : Nat) : Bool := decide (h.dir = d) && inBytes h.base h.size a

/-- MemAdmit(addr, dir): the byte answers without a bus error (20_memory.md R67). -/
def memAdmit (p : Platform) (d : Dir) (a : Nat) : Bool := p.holes.all (fun h => !h.covers d a)

/-- How an engine access ends. -/
inductive MemOutcome (α : Type) where
  | value (a : α)
  | busError
  | noAddress
  deriving DecidableEq, Repr

/-- MemRead(addr, 1) (00_scope.md R12). -/
def memRead (s : State) (a : Nat) : MemOutcome Byte :=
  if Config.dataSpace ≤ a then .noAddress
  else if memAdmit s.platform .read a then .value (s.mem.get a)
  else .busError

/-- MemWrite(addr, 1, v), answering the memory after it (00_scope.md R12). -/
def memWrite (s : State) (a : Nat) (v : Byte) : MemOutcome Memory :=
  if Config.dataSpace ≤ a then .noAddress
  else if memAdmit s.platform .write a then .value (s.mem.set a v)
  else .busError

/-! ## The output history -/

/-- The entry of a coordinate, if the running job has computed it. -/
def findCell : List HistoryCell → Coord → Option Byte
  | [], _ => none
  | c :: t, x => if c.at_ = x then some c.value else findCell t x

/-- O(p, q) (10_state.md R37). A coordinate the job has not computed reads as the line buffer's
unspecified content (R39; notes/assumptions/9). -/
def historyGet (s : State) (p q : Nat) : Byte :=
  match findCell s.history ⟨p, q⟩ with
  | some v => v
  | none => Config.lineBuffer s.freeCount p q

/-! ## Errors and the end of a job -/

/-- `raise CmdError(code)`: only STATUS.ERR and STATUS.ERR_CODE change (60_exceptions.md R223). -/
def cmdError (c : ErrCode) (s : State) : State := recordError c s

/-- `raise HostBusError`: the host gets the bus error response and nothing of the block changes
(60_exceptions.md R227). -/
def hostBusError (s : State) : State := { s with answer := .busError }

/-- The job is over: BUSY <- 0, DONE <- 1, and O is discarded (41_command_sequencer.md R160, R162;
10_state.md R37). -/
def endJob (s : State) : State := { s with busy := false, done := true, history := [] }

/-- Give every byte of the job's output plane an unspecified value (93_implementation_defined.md
U7, U9). -/
def scrambleOutput (s : State) : State :=
  { s with
    mem := s.mem.scramble s.freeCount s.job.dst.toNat s.job.count
    freeCount := s.freeCount + 1 }

/-- `raise JobAbort(code)` (41_command_sequencer.md R162, 60_exceptions.md R225). -/
def jobAbort (c : ErrCode) (s : State) : State := scrambleOutput (recordError c (endJob s))

/-- Complete(): ERR and ERR_CODE stay as they are (41_command_sequencer.md R160). -/
def complete (s : State) : State := endJob s

/-! ## Answers to the host -/

/-- A register read returns RDATA; it has no side effect (20_memory.md R76). -/
def answerRead (v : Word) (s : State) : Host.Outcome State Fault Refusal :=
  .next { s with answer := .data v }

/-- A register write has been performed and left the block as `s`. -/
def answerWrite (s : State) : Host.Outcome State Fault Refusal :=
  .next { s with answer := .done }

end Sys2Proof.Machine
end

