-- ==== Sys2Proof/Machine/Command.lean ====
section
/-! DEFINITION. Command(v): the checks in their order, rejection and acceptance, and the four
operations that write CMD (spec/41_command_sequencer.md R150 to R157; spec/40_register_access.md
R127; spec/42_filter_commands.md R186, R189, R191). The cells that an accepted job computes are in
Machine/Datapath.lean, the engine that runs it in Machine/Sequencer.lean. -/

namespace Sys2Proof.Machine

/-- ResolveK: the kernel side of a command, with the default resolved (41_command_sequencer.md
R153). -/
def resolveK (op : FilterKind) (f : BitVec 8) : Except ErrCode Nat :=
  match op with
  | .iir => if f ≠ 0 then .error .badFsize else .ok 0
  | .box => if f = 0 then .ok Config.boxDefaultK
      else if f.toNat % 2 = 0 then .error .badFsize else .ok f.toNat
  | .sharpen => if f = 0 then .ok Config.sharpenDefaultK
      else if f.toNat % 2 = 0 then .error .badFsize else .ok f.toNat

/-- PlacementOK: the planes of n bytes at S and D are disjoint, or identical for IIR
(41_command_sequencer.md R156). -/
def placementOk (op : FilterKind) (src dst n : Nat) : Bool :=
  let disjoint := decide (src + n ≤ dst) || decide (dst + n ≤ src)
  match op with
  | .iir => disjoint || decide (src = dst)
  | .box => disjoint
  | .sharpen => disjoint

/-- Checks 5 to 7: dimensions, address range, placement (41_command_sequencer.md R154 to R156). -/
def checkPlanes (op : FilterKind) (s : State) : Except ErrCode Unit :=
  let n := s.width.toNat * s.height.toNat
  if s.width = 0 ∨ s.height = 0 then .error .badDim
  else if s.srcBase.toNat + n > Config.dataSpace ∨ s.dstBase.toNat + n > Config.dataSpace then
    .error .badRange
  else if placementOk op s.srcBase.toNat s.dstBase.toNat n = false then .error .overlap
  else .ok ()

/-- The checks of Command(v), the first failing one deciding the code (41_command_sequencer.md R150,
60_exceptions.md R228): the kind and kernel side of the job to start, or the code. -/
def checkCommand (v : Word) (s : State) : Except ErrCode (FilterKind × Nat) :=
  if s.busy then .error .busy
  else if wordRsv0 v ≠ 0 ∨ wordRsv1 v ≠ 0 then .error .rsvd
  else
    match kindOfOp (wordOp v) with
    | none => .error .badOp
    | some op =>
      match resolveK op (wordFsize v) with
      | .error c => .error c
      | .ok k =>
        match checkPlanes op s with
        | .error c => .error c
        | .ok () => .ok (op, k)

/-- The snapshot latched at acceptance (10_state.md R35). -/
def snapshot (op : FilterKind) (k : Nat) (s : State) : Job :=
  { op := op
    k := k
    r := if k = 0 then 0 else (k - 1) / 2
    l := sext32 s.lambda
    w := s.width
    h := s.height
    src := s.srcBase
    dst := s.dstBase }

/-- Accept(op, k, v): the job starts in the same step (41_command_sequencer.md R157). -/
def accept (op : FilterKind) (k : Nat) (v : Word) (s : State) : State :=
  { s with
    job := snapshot op k s
    cmdLast := v
    history := []
    pos := ⟨0, 0⟩
    done := false
    err := false
    errCode := ErrCode.none.number
    busy := true }

/-- Command(v) (41_command_sequencer.md R150). -/
def command (v : Word) (s : State) : State :=
  match checkCommand v s with
  | .error c => cmdError c s
  | .ok (op, k) => accept op k v s

/-- CMD.IIR: the command word 0 (42_filter_commands.md R186). -/
def execCmdIir (s : State) : Host.Outcome State Fault Refusal := answerWrite (command iirWord s)

/-- CMD.BOX with FSIZE (42_filter_commands.md R189). -/
def execCmdBox (fsize : BitVec 8) (s : State) : Host.Outcome State Fault Refusal :=
  answerWrite (command (boxWord fsize) s)

/-- CMD.SHARPEN with FSIZE (42_filter_commands.md R191). -/
def execCmdSharpen (fsize : BitVec 8) (s : State) : Host.Outcome State Fault Refusal :=
  answerWrite (command (sharpenWord fsize) s)

/-- WR.CMD: every other command word (40_register_access.md R127). -/
def execWrCmd (wdata : Word) (s : State) : Host.Outcome State Fault Refusal :=
  answerWrite (command wdata s)

end Sys2Proof.Machine
end

