-- ==== Sys2Proof/Machine/RegisterAccess.lean ====
section
/-! DEFINITION. The register-access operations (spec/40_register_access.md R120 to R140) but for
the writes of CMD, which are in Machine/Command.lean. -/

namespace Sys2Proof.Machine

/-- RD.ID (R120). -/
def execRdId (s : State) : Host.Outcome State Fault Refusal := answerRead Config.idValue s

/-- WR.ID: nothing is written (R121). -/
def execWrId (_wdata : Word) (s : State) : Host.Outcome State Fault Refusal := answerWrite s

/-- RD.CTRL (R122). -/
def execRdCtrl (s : State) : Host.Outcome State Fault Refusal := answerRead (ctrlWord s) s

/-- WR.CTRL: IRQ_EN <- WDATA[0] (R123). -/
def execWrCtrl (wdata : Word) (s : State) : Host.Outcome State Fault Refusal :=
  answerWrite { s with irqEn := wdata.getLsbD 0 }

/-- RD.STATUS (R124). -/
def execRdStatus (s : State) : Host.Outcome State Fault Refusal := answerRead (statusWord s) s

/-- WR.STATUS: write one to clear (R125). -/
def execWrStatus (wdata : Word) (s : State) : Host.Outcome State Fault Refusal :=
  answerWrite (clearStatus wdata s)

/-- RD.CMD: the last accepted command word (R126). -/
def execRdCmd (s : State) : Host.Outcome State Fault Refusal := answerRead s.cmdLast s

/-- RD.WIDTH: the register, not JOB.W (R128). -/
def execRdWidth (s : State) : Host.Outcome State Fault Refusal := answerRead (zext32 s.width) s

/-- WR.WIDTH: W <- WDATA[15:0] (R129). -/
def execWrWidth (wdata : Word) (s : State) : Host.Outcome State Fault Refusal :=
  answerWrite { s with width := low16 wdata }

/-- RD.HEIGHT: the register, not JOB.H (R130). -/
def execRdHeight (s : State) : Host.Outcome State Fault Refusal := answerRead (zext32 s.height) s

/-- WR.HEIGHT: H <- WDATA[15:0] (R131). -/
def execWrHeight (wdata : Word) (s : State) : Host.Outcome State Fault Refusal :=
  answerWrite { s with height := low16 wdata }

/-- RD.SRC_BASE (R132). -/
def execRdSrcBase (s : State) : Host.Outcome State Fault Refusal := answerRead s.srcBase s

/-- WR.SRC_BASE (R133). -/
def execWrSrcBase (wdata : Word) (s : State) : Host.Outcome State Fault Refusal :=
  answerWrite { s with srcBase := wdata }

/-- RD.DST_BASE (R134). -/
def execRdDstBase (s : State) : Host.Outcome State Fault Refusal := answerRead s.dstBase s

/-- WR.DST_BASE (R135). -/
def execWrDstBase (wdata : Word) (s : State) : Host.Outcome State Fault Refusal :=
  answerWrite { s with dstBase := wdata }

/-- RD.LAMBDA (R136). -/
def execRdLambda (s : State) : Host.Outcome State Fault Refusal := answerRead s.lambda s

/-- WR.LAMBDA (R137). -/
def execWrLambda (wdata : Word) (s : State) : Host.Outcome State Fault Refusal :=
  answerWrite { s with lambda := wdata }

/-- RD.RSVD: the reserved space reads as zero (R138). -/
def execRdRsvd (_offset : BitVec 12) (s : State) : Host.Outcome State Fault Refusal :=
  answerRead 0x00000000#32 s

/-- WR.RSVD: the reserved space ignores writes (R139). -/
def execWrRsvd (_offset : BitVec 12) (_wdata : Word) (s : State) :
    Host.Outcome State Fault Refusal :=
  answerWrite s

/-- ILLEGAL.ACCESS: a bus error response and no effect (R140). -/
def execIllegalAccess (_write : Bool) (_offset : BitVec 12) (_size : Nat) (_wdata : Word)
    (s : State) : Host.Outcome State Fault Refusal :=
  .next (hostBusError s)

end Sys2Proof.Machine
end

