-- ==== Sys2Proof/Machine/Dispatch.lean ====
section
/-! DEFINITION. One arm per operation of spec/opcode_table.json: the effect of one host transaction on
the machine (spec/30_encoding.md R99). -/

namespace Sys2Proof.Machine

/-- The effect of one host transaction, as one indivisible step (40_register_access.md R141). -/
def exec (i : Instr) (s : State) : Host.Outcome State Fault Refusal :=
  match i with
  | .rdId => Sys2Proof.Machine.execRdId s
  | .wrId wdata => Sys2Proof.Machine.execWrId wdata s
  | .rdCtrl => Sys2Proof.Machine.execRdCtrl s
  | .wrCtrl wdata => Sys2Proof.Machine.execWrCtrl wdata s
  | .rdStatus => Sys2Proof.Machine.execRdStatus s
  | .wrStatus wdata => Sys2Proof.Machine.execWrStatus wdata s
  | .rdCmd => Sys2Proof.Machine.execRdCmd s
  | .cmdIir => Sys2Proof.Machine.execCmdIir s
  | .cmdBox fsize => Sys2Proof.Machine.execCmdBox fsize s
  | .cmdSharpen fsize => Sys2Proof.Machine.execCmdSharpen fsize s
  | .wrCmd wdata => Sys2Proof.Machine.execWrCmd wdata s
  | .rdWidth => Sys2Proof.Machine.execRdWidth s
  | .wrWidth wdata => Sys2Proof.Machine.execWrWidth wdata s
  | .rdHeight => Sys2Proof.Machine.execRdHeight s
  | .wrHeight wdata => Sys2Proof.Machine.execWrHeight wdata s
  | .rdSrcBase => Sys2Proof.Machine.execRdSrcBase s
  | .wrSrcBase wdata => Sys2Proof.Machine.execWrSrcBase wdata s
  | .rdDstBase => Sys2Proof.Machine.execRdDstBase s
  | .wrDstBase wdata => Sys2Proof.Machine.execWrDstBase wdata s
  | .rdLambda => Sys2Proof.Machine.execRdLambda s
  | .wrLambda wdata => Sys2Proof.Machine.execWrLambda wdata s
  | .rdRsvd offset => Sys2Proof.Machine.execRdRsvd offset s
  | .wrRsvd offset wdata => Sys2Proof.Machine.execWrRsvd offset wdata s
  | .illegalAccess write offset size wdata => Sys2Proof.Machine.execIllegalAccess write offset size wdata s

end Sys2Proof.Machine
end

