-- ==== Sys2Proof/Machine/Outside.lean ====
section
/-! DEFINITION. What the world outside the engine does other than a register access: data memory
accesses of the host and of other agents (spec/20_memory.md R77, R78), the reset input
(spec/70_reset_and_hazards.md R250 to R252), and the address decoding of the register window
(spec/20_memory.md R60). -/

namespace Sys2Proof.Machine

/-- The host or another agent writes a byte of data memory. While a job runs, a write to one of its
planes is refused (20_memory.md R78). -/
def agentWrite (a : Word) (v : Byte) (s : State) : Host.Outcome State Fault Refusal :=
  if s.busy ∧ (s.job.inInput a.toNat ∨ s.job.inOutput a.toNat) then .refused .hostInterference
  else .next { s with mem := s.mem.set a.toNat v }

/-- The host reads a byte of data memory. While a job runs, an output-plane byte reads as an
unspecified value (20_memory.md R77). -/
def hostRead (a : Word) (s : State) : State :=
  if s.busy ∧ s.job.inOutput a.toNat then
    { s with
      answer := .byte (Config.freeByte s.freeCount a.toNat)
      freeCount := s.freeCount + 1 }
  else { s with answer := .byte (s.mem.get a.toNat) }

/-- The reset input is asserted: every register and internal state takes its reset value
(70_reset_and_hazards.md R250). A running job leaves its output plane unspecified (R251); the rest of
data memory and the platform's parameters stay (R252), and so does what the outside will do. -/
def assertReset (s : State) : State :=
  let s' := if s.busy then scrambleOutput s else s
  { State.reset with
    mem := s'.mem
    freeCount := s'.freeCount
    platform := s.platform
    inputs := s.inputs }

/-- The transaction that a bus access is for this block: the window's bytes stand at REG_BASE + OFFSET
(20_memory.md R60, 30_encoding.md R91). An access elsewhere is not the block's. -/
def selectWindow (p : Platform) (a : BusAccess) : Option Transaction :=
  if inBytes p.regBase Config.regWindow a.addr then
    some ⟨a.write, BitVec.ofNat 12 (a.addr - p.regBase), a.size, a.wdata⟩
  else none

/-- The bus access by which the host performs a transaction (30_encoding.md R91). -/
def busAccessOf (p : Platform) (t : Transaction) : BusAccess :=
  ⟨p.regBase + t.offset.toNat, t.write, t.size, t.wdata⟩

end Sys2Proof.Machine
end

