-- ==== Sys2Proof/Machine/Datapath.lean ====
section
/-! DEFINITION. The datapath of a cell: boundary mux, neighbourhood accumulator, clip unit and the
three forms of CellValue (spec/42_filter_commands.md R180 to R191). Every sum and product is exact
(R182). -/

namespace Sys2Proof.Machine

/-- inside(p, q) for a plane of `h` rows and `w` columns (00_scope.md R14). -/
def inside (h w : Nat) (p q : Int) : Bool :=
  decide (0 ≤ p) && decide (p < h) && decide (0 ≤ q) && decide (q < w)

/-- The boundary mux: the neighbour (i - R + m, j - R + n) when it lies inside the plane, else nothing
(R180). -/
def neighbour (j : Job) (x : Coord) (m n : Nat) : Option Coord :=
  let p : Int := (x.row : Int) - j.r + m
  let q : Int := (x.col : Int) - j.r + n
  if inside j.h.toNat j.w.toNat p q then some ⟨p.toNat, q.toNat⟩ else none

/-- The window of a coordinate: its inside neighbours for 0 ≤ m, n < K (R181). -/
def window (j : Job) (x : Coord) : List Coord :=
  (List.range j.k).flatMap fun m => (List.range j.k).filterMap fun n => neighbour j x m n

/-- in(p, q): a read of the input plane (00_scope.md R12). -/
def readInput (s : State) (x : Coord) : MemOutcome Byte := memRead s (s.job.inAddr x.row x.col)

/-- The sum of the input samples at the listed coordinates. -/
def sumInputs (s : State) : List Coord → MemOutcome Nat
  | [] => .value 0
  | x :: t =>
    match readInput s x with
    | .value v =>
      match sumInputs s t with
      | .value n => .value (v.toNat + n)
      | .busError => .busError
      | .noAddress => .noAddress
    | .busError => .busError
    | .noAddress => .noAddress

/-- Acc(i, j) (R181). -/
def accumulate (s : State) (x : Coord) : MemOutcome Nat := sumInputs s (window s.job x)

/-- clamp(v, lo, hi) (00_scope.md R10). -/
def clamp (v lo hi : Int) : Int := if v < lo then lo else if hi < v then hi else v

/-- The clip/saturate unit Q(N, D) for D > 0; Lean's division of integers rounds toward minus
infinity for a positive divisor, as R10's div does (R183). -/
def quantize (n d : Int) : Byte := BitVec.ofNat 8 (clamp (n / d) 0 255).toNat

/-- The numerator N of the IIR recurrence at a coordinate whose input sample is `x` (R186). -/
def iirNumerator (s : State) (c : Coord) (x : Byte) : Int :=
  let O (p q : Nat) : Int := (historyGet s p q).toNat
  if c.row = 0 ∧ c.col = 0 then Config.iirB * x.toNat
  else if c.row = 0 then Config.iirB * x.toNat + Config.iirA * O c.row (c.col - 1)
  else if c.col = 0 then Config.iirB * x.toNat + Config.iirA * O (c.row - 1) c.col
  else Config.iirB * x.toNat + Config.iirA * (O (c.row - 1) c.col + O c.row (c.col - 1))
    + Config.iirC * O (c.row - 1) (c.col - 1)

/-- CellValue(IIR, i, j) (R186). -/
def cellIir (s : State) (c : Coord) : MemOutcome Byte :=
  match readInput s c with
  | .value x => .value (quantize (iirNumerator s c x) Config.iirScale)
  | .busError => .busError
  | .noAddress => .noAddress

/-- CellValue(BOX, i, j) (R189). -/
def cellBox (s : State) (c : Coord) : MemOutcome Byte :=
  match accumulate s c with
  | .value acc => .value (quantize acc ((s.job.k : Int) * s.job.k))
  | .busError => .busError
  | .noAddress => .noAddress

/-- The numerator N of SHARPEN from the centre sample and the sum (R191). -/
def sharpenNumerator (j : Job) (xc : Byte) (acc : Nat) : Int :=
  let k2 : Int := (j.k : Int) * j.k
  2 ^ 16 * k2 * xc.toNat + j.l * (k2 * xc.toNat - acc)

/-- The denominator D of SHARPEN (R191). -/
def sharpenDenominator (j : Job) : Int := 2 ^ 16 * ((j.k : Int) * j.k)

/-- CellValue(SHARPEN, i, j) (R191). -/
def cellSharpen (s : State) (c : Coord) : MemOutcome Byte :=
  match readInput s c with
  | .value xc =>
    match accumulate s c with
    | .value acc => .value (quantize (sharpenNumerator s.job xc acc) (sharpenDenominator s.job))
    | .busError => .busError
    | .noAddress => .noAddress
  | .busError => .busError
  | .noAddress => .noAddress

/-- CellValue(JOB.OP, i, j) (41_command_sequencer.md R158). -/
def cellValue (s : State) (c : Coord) : MemOutcome Byte :=
  match s.job.op with
  | .iir => cellIir s c
  | .box => cellBox s c
  | .sharpen => cellSharpen s c

end Sys2Proof.Machine
end

