-- ==== Sys2Proof/Machine/Sequencer.lean ====
section
/-! DEFINITION. The scan sequencer: one engine step computes and writes one cell
(spec/41_command_sequencer.md R158 to R162). -/

namespace Sys2Proof.Machine

/-- Next(i, j) (41_command_sequencer.md R159). -/
def nextPos (w : Nat) (c : Coord) : Coord :=
  if c.col + 1 < w then ⟨c.row, c.col + 1⟩ else ⟨c.row + 1, 0⟩

/-- The rest of a cell step once the cell's byte is in memory: O(i, j) <- v, pos <- Next(i, j), and
Complete() if that was the last cell (41_command_sequencer.md R158). -/
def finishCell (s : State) (m : Memory) (v : Byte) : State :=
  let s' := { s with
    mem := m
    history := ⟨s.pos, v⟩ :: s.history
    pos := nextPos s.job.w.toNat s.pos }
  if s'.pos = ⟨s.job.h.toNat, 0⟩ then complete s' else s'

/-- CellStep() (41_command_sequencer.md R158). A bus error of any of its accesses aborts the job with
code 8 (R162) and the step writes nothing (60_exceptions.md R226). -/
def cellStep (s : State) : Host.Outcome State Fault Refusal :=
  match cellValue s s.pos with
  | .value v =>
    match memWrite s (s.job.outAddr s.pos.row s.pos.col) v with
    | .value m => .next (finishCell s m v)
    | .busError => .next (jobAbort .bus s)
    | .noAddress => .fault .noSuchAddress
  | .busError => .next (jobAbort .bus s)
  | .noAddress => .fault .noSuchAddress

/-- A turn of the engine: the cell step while BUSY = 1; an idle engine does nothing
(41_command_sequencer.md R158, 70_reset_and_hazards.md R253). -/
def engineTurn (s : State) : Host.Outcome State Fault Refusal :=
  if s.busy then cellStep s else .next s

end Sys2Proof.Machine
end

