-- ==== Sys2Proof/Machine/Bus.lean ====
section
/-! DEFINITION. How the host's pending moves on the register window and its waits run
(spec/20_memory.md R60, R76; spec/30_encoding.md R104, R105). -/

namespace Sys2Proof.Machine

/-- A bus access: a transaction of the register window is decoded and executed; any other access is
not the block's and leaves it as it is. -/
def runAccess (a : BusAccess) (s : State) : Host.Outcome State Fault Refusal :=
  match selectWindow s.platform a with
  | some t => exec (decode t) s
  | none => .next s

/-- One poll of `wait`: a STATUS read. When it shows BUSY = 1 the engine has a turn and the host polls
again (30_encoding.md R105; notes/assumptions/17). -/
def runPoll (s : State) : Host.Outcome State Fault Refusal :=
  exec .rdStatus (if s.busy then { s with inputs := .engine :: .waitIdle :: s.inputs } else s)

/-- `wfi` before the moves `rest`: the host goes on when irq = 1, and the engine runs until then
(30_encoding.md R104; notes/assumptions/17). -/
def runWaitIrq (rest : List Input) (s : State) : Host.Outcome State Fault Refusal :=
  if irq s then .next { s with inputs := rest } else engineTurn s

/-- The bus access that `w`, numbered as spec/opcode_table.json numbers it, is on this platform. -/
def accessOfBits (p : Platform) (nbits w : Nat) : Option BusAccess :=
  match transactionOfBits nbits w with
  | .ok t => some (busAccessOf p t)
  | .error _ => none

end Sys2Proof.Machine
end

