-- ==== Sys2Proof/Machine/Step.lean ====
section
/-! DEFINITION. One step of the machine: the first pending move, or the engine's turn when nothing is
pending (spec/40_register_access.md R141, spec/41_command_sequencer.md R158, R161). -/

namespace Sys2Proof.Machine

/-- One step. With nothing pending the engine runs, so an accepted job ends whatever the host does
(41_command_sequencer.md R161). -/
def step (s : State) : Host.Outcome State Fault Refusal :=
  match s.inputs with
  | [] => engineTurn s
  | .access a :: rest => runAccess a { s with inputs := rest }
  | .memWrite a v :: rest => agentWrite a v { s with inputs := rest }
  | .memRead a :: rest => .next (hostRead a { s with inputs := rest })
  | .waitIrq :: rest => runWaitIrq rest s
  | .waitIdle :: rest => runPoll { s with inputs := rest }
  | .engine :: rest => engineTurn { s with inputs := rest }
  | .reset :: rest => .next (assertReset { s with inputs := rest })

/-- `s` with the numbered word as the host's next transaction, before everything else that is pending.
A word that is no transaction changes nothing. -/
def State.withFetchWord (s : State) (nbits w : Nat) : State :=
  match accessOfBits s.platform nbits w with
  | some a => { s with inputs := .access a :: s.inputs }
  | none => s

end Sys2Proof.Machine
end

