-- ==== Sys2Proof/Machine/Assembler.lean ====
section
/-! DEFINITION. The spec's assembly lines as moves of the host (spec/30_encoding.md R104, R105). Host
control flow (labels, `if`) chooses which lines run and is not the block's. -/

namespace Sys2Proof.Machine

/-- A line of a host program. A register is named by its offset. -/
inductive Asm where
  | rd (reg : BitVec 12)
  | wr (reg : BitVec 12) (imm : Word)
  | mwb (addr : Word) (v : Byte)
  | mrb (addr : Word)
  | wfi
  | filtIir
  | filtBox (k : Option Nat)
  | filtSharp (k : Option Nat)
  | lambda (x : ℚ)
  | ack
  | wait
  deriving DecidableEq, Repr

/-- The 32-bit two's-complement value of x * 2^16, refused when that is no integer of
[-2^31, 2^31 - 1] (30_encoding.md R105). -/
def lambdaWord (x : ℚ) : Option Word :=
  let y := x * 65536
  if y.den = 1 ∧ -2147483648 ≤ y.num ∧ y.num ≤ 2147483647 then some (BitVec.ofInt 32 y.num)
  else none

/-- `(K << 8) | op` (30_encoding.md R105). DESIGN CHOICE: from K = 2^24 on that is no 32-bit constant, and
the spec does not say what the assembler does; the model keeps the low 32 bits
(notes/assumptions/26). -/
def kernelWord (k op : Nat) : Word := BitVec.ofNat 32 (k * 256) ||| BitVec.ofNat 32 op

/-- The transaction of `wr REG, imm`. -/
def hostWriteReg (p : Platform) (reg : BitVec 12) (imm : Word) : Input :=
  .access (busAccessOf p (writeAt reg imm))

/-- The host's move that a line is, with pseudo-instructions expanded (30_encoding.md R105). -/
def assemble (p : Platform) : Asm → Option Input
  | .rd reg => some (.access (busAccessOf p (readAt reg)))
  | .wr reg imm => some (hostWriteReg p reg imm)
  | .mwb a v => some (.memWrite a v)
  | .mrb a => some (.memRead a)
  | .wfi => some .waitIrq
  | .filtIir => some (hostWriteReg p offCmd 0x00000000#32)
  | .filtBox none => some (hostWriteReg p offCmd 0x00000001#32)
  | .filtBox (some k) => some (hostWriteReg p offCmd (kernelWord k 1))
  | .filtSharp none => some (hostWriteReg p offCmd 0x00000002#32)
  | .filtSharp (some k) => some (hostWriteReg p offCmd (kernelWord k 2))
  | .lambda x => (lambdaWord x).map (hostWriteReg p offLambda)
  | .ack => some (hostWriteReg p offStatus 0x00000006#32)
  | .wait => some .waitIdle

end Sys2Proof.Machine
end

