-- ==== Sys2Proof/Safety.lean ====
section
/-! DEFINITION. What the claims speak of: the legal states, the platform's good behaviour, runs of the
machine, and the source's filters over exact rationals, written apart from the datapath
(spec/10_state.md R23, R35 to R37; spec/42_filter_commands.md R180 to R192). -/

namespace Sys2Proof.Machine

/-! ## Legal states -/

/-- The number of a coordinate in row-major order (00_scope.md R14). -/
def rank (w : Nat) (c : Coord) : Nat := c.row * w + c.col

/-- The history lists exactly the coordinates before number `n` in row-major order, newest first
(10_state.md R37). -/
def historyCovers (w : Nat) : Nat → List HistoryCell → Bool
  | n, [] => n == 0
  | n, c :: t =>
    decide (rank w c.at_ + 1 = n) && decide (c.at_.col < w) && historyCovers w (rank w c.at_) t

/-- STATUS as 10_state.md R23 says it always is, with a code that 60_exceptions.md R221 records. -/
abbrev StatusOk (s : State) : Prop :=
  (s.err = false → s.errCode = 0#4) ∧ (s.err = true → s.errCode ≠ 0#4) ∧ s.errCode.toNat ≤ 8 ∧
    ¬(s.busy = true ∧ s.done = true)

/-- The kernel side and the radius of a job (10_state.md R35). -/
abbrev KernelOk (j : Job) : Prop :=
  (j.op = .iir → j.k = 0 ∧ j.r = 0) ∧ (j.op ≠ .iir → j.k = 2 * j.r + 1 ∧ j.k ≤ 255)

/-- A snapshot that passed the checks of 41_command_sequencer.md R153 to R156. -/
abbrev JobOk (j : Job) : Prop :=
  j.w ≠ 0#16 ∧ j.h ≠ 0#16 ∧ j.src.toNat + j.count ≤ Config.dataSpace ∧
    j.dst.toNat + j.count ≤ Config.dataSpace ∧
    placementOk j.op j.src.toNat j.dst.toNat j.count = true ∧ KernelOk j ∧
    -2147483648 ≤ j.l ∧ j.l ≤ 2147483647

/-- A running job: the scan stands inside the plane, O holds exactly the cells before it, each with the
byte that stands in the output plane, and only code 1 can have been recorded (10_state.md R36, R37;
41_command_sequencer.md R160). -/
abbrev RunOk (s : State) : Prop :=
  JobOk s.job ∧ s.pos.row < s.job.h.toNat ∧ s.pos.col < s.job.w.toNat ∧
    historyCovers s.job.w.toNat (rank s.job.w.toNat s.pos) s.history = true ∧
    (∀ c ∈ s.history, s.mem.get (s.job.outAddr c.at_.row c.at_.col) = c.value) ∧
    (s.err = true → s.errCode = 1#4)

/-- The legal states: every state that a run from reset reaches. -/
abbrev Legal (s : State) : Prop :=
  s.mem.wf = true ∧ StatusOk s ∧ (s.busy = true → RunOk s) ∧ (s.busy = false → s.history = [])

/-! ## The platform -/

/-- Every input-plane byte of the job may be read and every output-plane byte written without a bus
error (20_memory.md R67). -/
def PlanesAdmitted (s : State) : Prop :=
  (∀ a, s.job.inInput a = true → memAdmit s.platform .read a = true) ∧
    (∀ a, s.job.inOutput a = true → memAdmit s.platform .write a = true)

/-- A data access of the cell at pos has a bus error: a read of an input sample inside the plane and
within the radius (0 for IIR) of the cell, or the write of the output sample (41_command_sequencer.md
R162, 20_memory.md R67, R68). -/
def CellBusError (s : State) : Prop :=
  (∃ p q, p < s.job.h.toNat ∧ q < s.job.w.toNat ∧ p ≤ s.pos.row + s.job.r ∧
      s.pos.row ≤ p + s.job.r ∧ q ≤ s.pos.col + s.job.r ∧ s.pos.col ≤ q + s.job.r ∧
      memAdmit s.platform .read (s.job.inAddr p q) = false) ∨
    memAdmit s.platform .write (s.job.outAddr s.pos.row s.pos.col) = false

/-! ## Runs -/

/-- One step that goes on. -/
def StepsTo (s t : State) : Prop := step s = .next t

/-- Any number of steps, each of which starts with the job still running. -/
def RunsBusy : State → State → Prop := Relation.ReflTransGen fun s t => s.busy = true ∧ StepsTo s t

/-- How many cells the running job has left. -/
def cellsLeft (s : State) : Nat := s.job.count - rank s.job.w.toNat s.pos

/-- The operation completes with the next state `t`. -/
def Completes (i : Instr) (s t : State) : Prop := exec i s = .next t

/-- The write of `v` to CMD is turned away with `code`: STATUS.ERR and STATUS.ERR_CODE are all of the
block that changes (60_exceptions.md R223). -/
def Rejects (v : Word) (s : State) (code : BitVec 4) : Prop :=
  Completes (decodeCmd v) s { s with err := true, errCode := code, answer := .done }

/-! ## The source's filters, over the rationals -/

/-- The plane of `w` columns at `base`, as numbers. -/
def planeAt (m : Memory) (base w : Nat) (p q : Nat) : Nat := (m.get (sampleAddr base w p q)).toNat

/-- The source's quantizer: 0 below 0, 255 above 255, else the truncation toward zero
(42_filter_commands.md R184). -/
def sourceQuantize (r : ℚ) : Nat := if r < 0 then 0 else if 255 < r then 255 else ⌊r⌋.toNat

/-- The sum over every kernel offset (m, n) of [0, k)² whose coordinate (i - radius + m, j - radius + n)
lies inside an `h` by `w` plane, of its weight times its sample; the others contribute nothing
(42_filter_commands.md R180, R189). -/
def windowSum (inp : Nat → Nat → Nat) (h w k r : Nat) (weight : Nat → Nat → ℚ) (i j : Nat) : ℚ :=
  ∑ m ∈ Finset.range k, ∑ n ∈ Finset.range k,
    if r ≤ i + m ∧ i + m < h + r ∧ r ≤ j + n ∧ j + n < w + r then
      weight m n * (inp (i + m - r) (j + n - r) : ℚ)
    else 0

/-- The box filter before quantization: uniform weight 1 / k² (42_filter_commands.md R189). -/
def sourceBox (inp : Nat → Nat → Nat) (h w k r : Nat) (i j : Nat) : ℚ :=
  windowSum inp h w k r (fun _ _ => 1 / (k : ℚ) ^ 2) i j

/-- The sharpen filter before quantization, by its weights: c = 1 / k², centre 1 + λ (1 - c), any other
-λ c (42_filter_commands.md R191). -/
def sourceSharpen (inp : Nat → Nat → Nat) (h w k r : Nat) (lam : ℚ) (i j : Nat) : ℚ :=
  let c : ℚ := 1 / (k : ℚ) ^ 2
  windowSum inp h w k r
    (fun m n => if m = r ∧ n = r then 1 + lam * (1 - c) else -lam * c) i j

/-- The recursive filter before quantization, from the input and the outputs already computed
(42_filter_commands.md R186). -/
def sourceIir (inp out : Nat → Nat → Nat) (i j : Nat) : ℚ :=
  if i = 0 ∧ j = 0 then 0.01 * inp i j
  else if i = 0 then 0.01 * inp i j + 0.9 * out i (j - 1)
  else if j = 0 then 0.01 * inp i j + 0.9 * out (i - 1) j
  else 0.01 * inp i j + 0.9 * (out (i - 1) j + out i (j - 1)) - 0.81 * out (i - 1) (j - 1)

/-- λ of a job: L / 2^16 (42_filter_commands.md R191). -/
def jobLambda (j : Job) : ℚ := (j.l : ℚ) / 65536

/-- The value that the job's kind gives cell (i, j), from the input plane and, for IIR, the output plane
(42_filter_commands.md R186, R189, R191). -/
def sourceCell (j : Job) (inp out : Nat → Nat → Nat) (i c : Nat) : Nat :=
  match j.op with
  | .iir => sourceQuantize (sourceIir inp out i c)
  | .box => sourceQuantize (sourceBox inp j.h.toNat j.w.toNat j.k j.r i c)
  | .sharpen => sourceQuantize (sourceSharpen inp j.h.toNat j.w.toNat j.k j.r (jobLambda j) i c)

/-- The job has kept faith with the memory `m` it started from: every output sample before pos is the one
its filter gives from the input plane in `m`, and every input byte that no cell before pos has overwritten
is as in `m` (20_memory.md R80, 41_command_sequencer.md R163). -/
def Faithful (m : Memory) (s : State) : Prop :=
  (∀ p q, q < s.job.w.toNat → rank s.job.w.toNat ⟨p, q⟩ < rank s.job.w.toNat s.pos →
    planeAt s.mem s.job.dst.toNat s.job.w.toNat p q =
      sourceCell s.job (planeAt m s.job.src.toNat s.job.w.toNat)
        (planeAt s.mem s.job.dst.toNat s.job.w.toNat) p q) ∧
  ∀ a, s.job.inInput a = true →
    (∀ p q, q < s.job.w.toNat → rank s.job.w.toNat ⟨p, q⟩ < rank s.job.w.toNat s.pos →
      a ≠ s.job.outAddr p q) →
    s.mem.get a = m.get a

end Sys2Proof.Machine
end

