-- ==== Sys2Proof/Certificates/Slice0/Obligations.lean ====
section
/-! DEFINITION. The statements for the provers, one per numbered rule or group of rules of spec/. Each
docstring names the rules it formalises, or says what of it is the model's own choice. -/

open Sys2Proof Sys2Proof.Machine

/-! ## Encoding -/

/-- Every operation with legal operands is what the decoder reads from its transaction (30_encoding.md
R91 to R99). -/
def Obligations.DecodeOfEncodeIsTheInstruction : Prop :=
  ∀ i : Instr, i.wf = true → decode (encode i) = i

/-- Every transaction is the transaction of what it decodes to: no two have one meaning. A read's
WDATA, which format T does not have, is 0 in the model's form of a read (notes/assumptions/19). -/
def Obligations.EncodeOfDecodeIsTheTransaction : Prop :=
  ∀ t : Transaction, (t.write = false → t.wdata = 0) → encode (decode t) = t

/-- "The decoder is total: every header and size names exactly one rule": what it names has operands
that its row allows (30_encoding.md R92). -/
def Obligations.EveryTransactionNamesALegalOperation : Prop :=
  ∀ t : Transaction, (decode t).wf = true

/-- For a legal transaction exactly one row of the opcode table of lowest priority number matches, and
the decoder names it (30_encoding.md R99). -/
def Obligations.DecoderFollowsOpcodeTable : Prop :=
  ∀ t : Transaction, t.size = 4 → t.offset.toNat % 4 = 0 →
    ∃ r ∈ opcodeTable, r.fits t = true ∧ r.mnemonic = (decode t).mnemonic ∧
      ∀ r' ∈ opcodeTable, r'.fits t = true → r' = r ∨ r.priority < r'.priority

/-- A transaction is an illegal access exactly when SIZE is not 4 or OFFSET[1:0] is not 0. These get the
bus error response and have no effect, and they are the only transactions the block answers with an error
(30_encoding.md R100, 40_register_access.md R140). -/
def Obligations.IllegalExactlyBySizeOrAlignment : Prop :=
  ∀ t : Transaction,
    let illegal := t.size ≠ 4 ∨ t.offset.toNat % 4 ≠ 0
    ((∃ w o n v, decode t = .illegalAccess w o n v) ↔ illegal) ∧
    ∀ s : State, ∃ u : State, exec (decode t) s = .next u ∧ (u.answer = .busError ↔ illegal) ∧
      (illegal → u = { s with answer := .busError })

/-- Words that 95_test_vectors.md L2.1 writes out decode to the operations it gives (R90, R93). -/
def Obligations.WrittenOutWordsDecode : Prop :=
  decodeTableWord 16 0x0000 = some .rdId ∧ decodeTableWord 16 0x0008 = some .rdStatus ∧
    decodeTableWord 48 0x100C00000000 = some .cmdIir ∧
    decodeTableWord 48 0x100C00000301 = some (.cmdBox 3) ∧
    decodeTableWord 48 0x100C00000002 = some (.cmdSharpen 0) ∧
    decodeTableWord 48 0x100C00000100 = some (.wrCmd 0x100) ∧
    decodeTableWord 48 0x100C00000003 = some (.wrCmd 3) ∧
    decodeTableWord 48 0x102000018000 = some (.wrLambda 0x18000) ∧
    decodeTableWord 16 0x0100 = some (.rdRsvd 0x100) ∧
    decodeTableWord 16 0x000A = some (.illegalAccess false 0x00A 4 0)

/-- The decoder reads an operation from its word as spec/opcode_table.json numbers it, {header} in
format T and {header, WDATA} in format TC. SIZE has no bits there, so the word of an illegal access is
one with SIZE = 4 (30_encoding.md R90). -/
def Obligations.TableWordDecodes : Prop :=
  ∀ i : Instr, i.wf = true → (encode i).size = 4 →
    decodeTableWord (tableBits i) (tableWord i) = some i

/-- The assembler's filter commands are the encodings of CMD.IIR, CMD.BOX and CMD.SHARPEN, `lambda`
takes exactly the values of Q16.16, and `ack` is a write of 6 to STATUS (30_encoding.md R105). -/
def Obligations.PseudoInstructionsExpand : Prop :=
  ∀ p : Platform,
    assemble p .filtIir = some (.access (busAccessOf p (encode .cmdIir))) ∧
    (∀ k : Nat, k < 256 →
      assemble p (.filtBox (some k)) =
          some (.access (busAccessOf p (encode (.cmdBox (BitVec.ofNat 8 k))))) ∧
        assemble p (.filtSharp (some k)) =
          some (.access (busAccessOf p (encode (.cmdSharpen (BitVec.ofNat 8 k)))))) ∧
    assemble p (.filtBox none) = some (.access (busAccessOf p (encode (.cmdBox 0)))) ∧
    assemble p (.filtSharp none) = some (.access (busAccessOf p (encode (.cmdSharpen 0)))) ∧
    assemble p .ack = some (.access (busAccessOf p (encode (.wrStatus 6)))) ∧
    (∀ v : Word, assemble p (.lambda ((v.toInt : ℚ) / 65536)) =
      some (.access (busAccessOf p (encode (.wrLambda v))))) ∧
    ∀ x : ℚ, (∀ v : Word, x * 65536 ≠ v.toInt) → assemble p (.lambda x) = none

/-! ## A step and the bus -/

/-- When the host's next move is a transaction of the register window, the step is the effect of the
operation it decodes to; for the transaction of a well-formed operation it is that operation's effect
(30_encoding.md R92, 40_register_access.md R141). -/
def Obligations.StepRunsTheDecodedInstruction : Prop :=
  ∀ (s : State) (rest : List Input),
    (∀ a t, s.inputs = .access a :: rest → selectWindow s.platform a = some t →
      step s = exec (decode t) { s with inputs := rest }) ∧
    ∀ i : Instr, i.wf = true → s.inputs = .access (busAccessOf s.platform (encode i)) :: rest →
      step s = exec i { s with inputs := rest }

/-- A numbered word placed as the host's next transaction is what the next step runs (the loading of a
program is the model's own, notes/assumptions/5). -/
def Obligations.PlacedWordRunsNext : Prop :=
  ∀ (s : State) (nbits w : Nat) (i : Instr), decodeTableWord nbits w = some i →
    step (s.withFetchWord nbits w) = exec i s

/-- "The byte address on the host's bus is REG_BASE + OFFSET": the window selects an access by its
offset from REG_BASE, and an access elsewhere leaves the machine as it is (30_encoding.md R91,
20_memory.md R60; that the block ignores other addresses is notes/assumptions/15). -/
def Obligations.WindowSelectsByOffset : Prop :=
  (∀ (p : Platform) (a : BusAccess) (t : Transaction),
    selectWindow p a = some t ↔
      a.addr = p.regBase + t.offset.toNat ∧ t.write = a.write ∧ t.size = a.size ∧
        t.wdata = a.wdata) ∧
    ∀ (s : State) (a : BusAccess) (rest : List Input), s.inputs = .access a :: rest →
      (a.addr < s.platform.regBase ∨ s.platform.regBase + 4096 ≤ a.addr) →
      step s = .next { s with inputs := rest }

/-- Register bits [8k+7:8k] travel on the lane of byte address REG_BASE + offset + k, and a 4-byte access
has no other lane (20_memory.md R63). -/
def Obligations.RegisterLanesAreLittleEndian : Prop :=
  ∀ (p : Platform) (o : BitVec 12) (v : Word),
    (∀ k, k < 4 → ∃ b : Byte, laneAt p o v (p.regBase + o.toNat + k) = some b ∧
      ∀ n, n < 8 → b.getLsbD n = v.getLsbD (8 * k + n)) ∧
    ∀ a, (a < p.regBase + o.toNat ∨ p.regBase + o.toNat + 4 ≤ a) → laneAt p o v a = none

/-- With nothing pending, or on its turn, the engine runs: its cell step while BUSY = 1, else nothing
(41_command_sequencer.md R158, 70_reset_and_hazards.md R253; the order of turns is
notes/assumptions/6). -/
def Obligations.EngineTurnIsAStep : Prop :=
  ∀ (s : State) (rest : List Input),
    (s.inputs = [] → step s = if s.busy then cellStep s else .next s) ∧
    (s.inputs = .engine :: rest →
      step s = if s.busy then cellStep { s with inputs := rest } else .next { s with inputs := rest })

/-- `wait` polls STATUS and goes on when BUSY reads 0; `wfi` goes on when irq = 1 (30_encoding.md R104,
R105). The model's own, all of notes/assumptions/17: the engine has one turn between two polls; while
irq = 0 a `wfi` gives the engine every turn as long as BUSY = 1, each the cell step of
41_command_sequencer.md R158; with irq = 0 and BUSY = 0 it waits for ever in an unchanged state. -/
def Obligations.WaitsEndOnIdleAndOnIrq : Prop :=
  ∀ (s : State) (rest : List Input),
    (s.inputs = .waitIdle :: rest →
      ∃ v : Word, v.getLsbD 0 = s.busy ∧
        step s = .next { s with
          inputs := if s.busy then .engine :: .waitIdle :: rest else rest
          answer := .data v }) ∧
    (s.inputs = .waitIrq :: rest →
      (irq s = true → step s = .next { s with inputs := rest }) ∧
      (irq s = false → s.busy = false → step s = .next s) ∧
      (irq s = false → s.busy = true → step s = cellStep s))

/-! ## Register reads -/

/-- RD.ID, RD.CMD, RD.SRC_BASE, RD.DST_BASE, RD.LAMBDA and RD.RSVD complete in every state with the
register's value and change nothing else (40_register_access.md R120, R126, R132, R134, R136, R138). -/
def Obligations.WholeWordReadsReturnTheRegister : Prop :=
  ∀ s : State,
    Completes .rdId s { s with answer := .data 0x494D4601#32 } ∧
    Completes .rdCmd s { s with answer := .data s.cmdLast } ∧
    Completes .rdSrcBase s { s with answer := .data s.srcBase } ∧
    Completes .rdDstBase s { s with answer := .data s.dstBase } ∧
    Completes .rdLambda s { s with answer := .data s.lambda } ∧
    ∀ o : BitVec 12, offsetReserved o = true →
      Completes (.rdRsvd o) s { s with answer := .data 0#32 }

/-- RD.CTRL, RD.WIDTH and RD.HEIGHT complete in every state with IRQ_EN, W and H, zero-extended, and
change nothing else (40_register_access.md R122, R128, R130). -/
def Obligations.NarrowReadsAreZeroExtended : Prop :=
  ∀ s : State, ∃ c w h : Word,
    Completes .rdCtrl s { s with answer := .data c } ∧ c.toNat = (if s.irqEn then 1 else 0) ∧
    Completes .rdWidth s { s with answer := .data w } ∧ w.toNat = s.width.toNat ∧
    Completes .rdHeight s { s with answer := .data h } ∧ h.toNat = s.height.toNat

/-- RD.STATUS completes in every state with {24'b0, ERR_CODE, 1'b0, ERR, DONE, BUSY} and changes nothing
else. While a job runs the value is 0x00000001, or 0x00000015 if a command was rejected during the job
(40_register_access.md R124). -/
def Obligations.StatusReadHasItsBits : Prop :=
  ∀ s : State, ∃ v : Word,
    Completes .rdStatus s { s with answer := .data v } ∧
    v.getLsbD 0 = s.busy ∧ v.getLsbD 1 = s.done ∧ v.getLsbD 2 = s.err ∧ v.getLsbD 3 = false ∧
    (∀ n, n < 4 → v.getLsbD (4 + n) = s.errCode.getLsbD n) ∧ (∀ n, 8 ≤ n → v.getLsbD n = false) ∧
    (Legal s → s.busy = true → v = 0x00000001#32 ∨ v = 0x00000015#32)

/-- "A register read has no side effect": whichever read it is, all that changes is the answer on the
bus (20_memory.md R76). -/
def Obligations.ReadsHaveNoSideEffect : Prop :=
  ∀ (i : Instr) (s t : State), i.isWrite = false → exec i s = .next t →
    t = { s with answer := t.answer }

/-! ## Register writes -/

/-- WR.WIDTH and WR.HEIGHT keep WDATA[15:0], WR.SRC_BASE, WR.DST_BASE and WR.LAMBDA keep WDATA; they
complete in every state and change nothing else, JOB included (40_register_access.md R129, R131, R133,
R135, R137). -/
def Obligations.ConfigWritesStoreWdata : Prop :=
  ∀ (s : State) (v : Word),
    (∃ w : BitVec 16, w.toNat = v.toNat % 65536 ∧
      Completes (.wrWidth v) s { s with width := w, answer := .done } ∧
      Completes (.wrHeight v) s { s with height := w, answer := .done }) ∧
    Completes (.wrSrcBase v) s { s with srcBase := v, answer := .done } ∧
    Completes (.wrDstBase v) s { s with dstBase := v, answer := .done } ∧
    Completes (.wrLambda v) s { s with lambda := v, answer := .done }

/-- WR.CTRL completes in every state: IRQ_EN <- WDATA[0], nothing else of the block changes, and irq is
at once IRQ_EN AND (DONE OR ERR) (40_register_access.md R123). -/
def Obligations.CtrlWriteSetsIrqEnable : Prop :=
  ∀ (s : State) (v : Word), ∃ t : State,
    Completes (.wrCtrl v) s t ∧ t = { s with irqEn := v.getLsbD 0, answer := .done } ∧
    irq t = (v.getLsbD 0 && (s.done || s.err))

/-- WR.STATUS completes in every state: WDATA[1] clears DONE, WDATA[2] clears ERR and ERR_CODE, a 0 there
leaves them, and nothing else of the block changes, BUSY included. irq follows at once
(40_register_access.md R125). -/
def Obligations.StatusWriteClearsOnes : Prop :=
  ∀ (s : State) (v : Word), ∃ t : State,
    Completes (.wrStatus v) s t ∧
    t = { s with done := t.done, err := t.err, errCode := t.errCode, answer := .done } ∧
    (v.getLsbD 1 = true → t.done = false) ∧ (v.getLsbD 1 = false → t.done = s.done) ∧
    (v.getLsbD 2 = true → t.err = false ∧ t.errCode = 0#4) ∧
    (v.getLsbD 2 = false → t.err = s.err ∧ t.errCode = s.errCode) ∧
    irq t = (s.irqEn && (t.done || t.err))

/-- WR.ID and WR.RSVD complete in every state and write nothing (40_register_access.md R121, R139). -/
def Obligations.IdAndReservedWritesAreIgnored : Prop :=
  ∀ (s : State) (v : Word),
    Completes (.wrId v) s { s with answer := .done } ∧
    ∀ o : BitVec 12, offsetReserved o = true →
      Completes (.wrRsvd o v) s { s with answer := .done }

/-- A register reads back what its own bits kept of the word written: IRQ_EN, 16 bits of WIDTH and
HEIGHT, all of SRC_BASE, DST_BASE and LAMBDA (10_state.md R22, R26 to R29). -/
def Obligations.WrittenRegistersReadBack : Prop :=
  ∀ (s t : State) (v : Word),
    (exec (.wrCtrl v) s = .next t →
      exec .rdCtrl t = .next { t with answer := .data (v &&& 0x00000001#32) }) ∧
    (exec (.wrWidth v) s = .next t →
      exec .rdWidth t = .next { t with answer := .data (v &&& 0x0000FFFF#32) }) ∧
    (exec (.wrHeight v) s = .next t →
      exec .rdHeight t = .next { t with answer := .data (v &&& 0x0000FFFF#32) }) ∧
    (exec (.wrSrcBase v) s = .next t → exec .rdSrcBase t = .next { t with answer := .data v }) ∧
    (exec (.wrDstBase v) s = .next t → exec .rdDstBase t = .next { t with answer := .data v }) ∧
    (exec (.wrLambda v) s = .next t → exec .rdLambda t = .next { t with answer := .data v })

/-- An illegal access gets the bus error response, and no state of the block changes
(20_memory.md R65, 60_exceptions.md R227). -/
def Obligations.IllegalAccessAnswersBusError : Prop :=
  (∀ (s : State) (w : Bool) (o : BitVec 12) (n : Nat) (v : Word),
    (Instr.illegalAccess w o n v).wf = true →
      Completes (.illegalAccess w o n v) s { s with answer := .busError }) ∧
  ∀ (s : State) (t : Transaction) (rest : List Input), (t.size ≠ 4 ∨ t.offset.toNat % 4 ≠ 0) →
    s.inputs = .access (busAccessOf s.platform t) :: rest →
      step s = .next { s with inputs := rest, answer := .busError }

/-! ## Commands -/

/-- The checks of a command run in the order 1 to 7 and the first that fails decides the code; a command
that fails one changes only STATUS.ERR and STATUS.ERR_CODE (41_command_sequencer.md R150 to R156,
60_exceptions.md R223, R228). -/
def Obligations.CommandChecksInOrder : Prop :=
  ∀ (s : State) (v : Word),
    let op := v.toNat % 4
    let fsize := v.toNat / 256 % 256
    let n := s.width.toNat * s.height.toNat
    let S := s.srcBase.toNat
    let D := s.dstBase.toNat
    let reserved := v.toNat / 4 % 64 ≠ 0 ∨ v.toNat / 65536 ≠ 0
    let badSize := if op = 0 then fsize ≠ 0 else fsize ≠ 0 ∧ fsize % 2 = 0
    let noPlane := s.width.toNat = 0 ∨ s.height.toNat = 0
    let tooFar := S + n > 2 ^ 32 ∨ D + n > 2 ^ 32
    let overlap := ¬(S + n ≤ D ∨ D + n ≤ S ∨ op = 0 ∧ S = D)
    (s.busy = true → Rejects v s 1) ∧
    (s.busy = false → reserved → Rejects v s 2) ∧
    (s.busy = false → ¬reserved → op = 3 → Rejects v s 3) ∧
    (s.busy = false → ¬reserved → op ≠ 3 → badSize → Rejects v s 4) ∧
    (s.busy = false → ¬reserved → op ≠ 3 → ¬badSize → noPlane → Rejects v s 5) ∧
    (s.busy = false → ¬reserved → op ≠ 3 → ¬badSize → ¬noPlane → tooFar → Rejects v s 6) ∧
    (s.busy = false → ¬reserved → op ≠ 3 → ¬badSize → ¬noPlane → ¬tooFar → overlap →
      Rejects v s 7)

/-- CMD.IIR starts a job when the block is idle, the planes are not empty, lie inside the address space,
and are disjoint or identical (41_command_sequencer.md R157, 42_filter_commands.md R186). -/
def Obligations.IirCommandStartsAJob : Prop :=
  ∀ s : State,
    let n := s.width.toNat * s.height.toNat
    s.busy = false → s.width.toNat ≠ 0 → s.height.toNat ≠ 0 → s.srcBase.toNat + n ≤ 2 ^ 32 →
    s.dstBase.toNat + n ≤ 2 ^ 32 →
    (s.srcBase.toNat + n ≤ s.dstBase.toNat ∨ s.dstBase.toNat + n ≤ s.srcBase.toNat ∨
      s.srcBase = s.dstBase) →
    Completes .cmdIir s { s with
      job := { op := .iir, k := 0, r := 0, l := s.lambda.toInt, w := s.width, h := s.height,
               src := s.srcBase, dst := s.dstBase }
      cmdLast := 0#32
      history := []
      pos := ⟨0, 0⟩
      done := false
      err := false
      errCode := 0#4
      busy := true
      answer := .done }

/-- CMD.BOX and CMD.SHARPEN start a job when the block is idle, FSIZE is 0 or odd, the planes are not
empty, lie inside the address space and are disjoint. FSIZE = 0 selects K = 9 for BOX and 5 for SHARPEN
(41_command_sequencer.md R153, R157, 42_filter_commands.md R189, R191). -/
def Obligations.BoxAndSharpenCommandsStartAJob : Prop :=
  ∀ (s : State) (fsize : BitVec 8),
    let n := s.width.toNat * s.height.toNat
    let started (op : FilterKind) (opBits k : Nat) : State := { s with
      job := { op := op, k := k, r := (k - 1) / 2, l := s.lambda.toInt, w := s.width,
               h := s.height, src := s.srcBase, dst := s.dstBase }
      cmdLast := BitVec.ofNat 32 (fsize.toNat * 256 + opBits)
      history := []
      pos := ⟨0, 0⟩
      done := false
      err := false
      errCode := 0#4
      busy := true
      answer := .done }
    s.busy = false → s.width.toNat ≠ 0 → s.height.toNat ≠ 0 → s.srcBase.toNat + n ≤ 2 ^ 32 →
    s.dstBase.toNat + n ≤ 2 ^ 32 →
    (s.srcBase.toNat + n ≤ s.dstBase.toNat ∨ s.dstBase.toNat + n ≤ s.srcBase.toNat) →
    (fsize.toNat = 0 ∨ fsize.toNat % 2 = 1) →
    Completes (.cmdBox fsize) s
        (started .box 1 (if fsize.toNat = 0 then 9 else fsize.toNat)) ∧
      Completes (.cmdSharpen fsize) s
        (started .sharpen 2 (if fsize.toNat = 0 then 5 else fsize.toNat))

/-- WR.CMD, a word that no filter row matches, is rejected in every state, with code 1 if BUSY, else 2, 3
or 4, and is not stored (40_register_access.md R127, 30_encoding.md R102). -/
def Obligations.OtherCommandWordsAreRejected : Prop :=
  ∀ (s : State) (v : Word), (Instr.wrCmd v).wf = true →
    Completes (.wrCmd v) s { s with
      err := true
      errCode :=
        if s.busy then 1#4
        else if v.toNat / 4 % 64 ≠ 0 ∨ v.toNat / 65536 ≠ 0 then 2#4
        else if v.toNat % 4 = 3 then 3#4
        else 4#4
      answer := .done }

/-- A transaction that leaves the block running where it was idle was a write of CMD and stored its word
as CMD_LAST, exactly as written; while a job runs no transaction changes BUSY, JOB, pos, O or CMD_LAST
(41_command_sequencer.md R151, R157, 10_state.md R25, R35). -/
def Obligations.OnlyCommandsStartJobs : Prop :=
  ∀ (i : Instr) (s t : State), exec i s = .next t →
    (s.busy = false → t.busy = true →
      (encode i).offset = 0x00C#12 ∧ i.isWrite = true ∧ t.cmdLast = (encode i).wdata) ∧
    (s.busy = true → t.busy = true ∧ t.job = s.job ∧ t.pos = s.pos ∧ t.history = s.history ∧
      t.cmdLast = s.cmdLast)

/-! ## STATUS and irq as a whole -/

/-- DONE and ERR are cleared only by a host write of a 1 in their bit of STATUS, by acceptance of a
command, and by reset (10_state.md R24). -/
def Obligations.DoneAndErrClearedOnlyByHost : Prop :=
  ∀ s t : State, step s = .next t →
    (s.done = true ∧ t.done = false → (∃ rest, s.inputs = .reset :: rest) ∨
      (s.busy = false ∧ t.busy = true) ∨
      ∃ a rest o v, s.inputs = .access a :: rest ∧ selectWindow s.platform a = some o ∧
        decode o = .wrStatus v ∧ v.getLsbD 1 = true) ∧
    (s.err = true ∧ t.err = false → (∃ rest, s.inputs = .reset :: rest) ∨
      (s.busy = false ∧ t.busy = true) ∨
      ∃ a rest o v, s.inputs = .access a :: rest ∧ selectWindow s.platform a = some o ∧
        decode o = .wrStatus v ∧ v.getLsbD 2 = true)

/-- irq falls when a command is accepted, and rises, if enabled, when a job ends and when a command is
rejected; the acknowledge write of 6 lowers it (60_exceptions.md R230, R231, 41_command_sequencer.md
R157). -/
def Obligations.IrqFollowsTheJob : Prop :=
  ∀ s t : State,
    (∀ i, exec i s = .next t → s.busy = false → t.busy = true → irq t = false) ∧
    (engineTurn s = .next t → s.busy = true → t.busy = false → s.irqEn = true → irq t = true) ∧
    (∀ v, exec (decodeCmd v) s = .next t → ¬(s.busy = false ∧ t.busy = true) → s.irqEn = true →
      irq t = true) ∧
    (exec (.wrStatus 6) s = .next t → irq t = false)

/-! ## The engine -/

/-- A cell step with no bus error computes the cell at pos, writes that one byte, records it in O,
advances pos in row-major order and, after the last cell, completes the job; nothing else changes
(41_command_sequencer.md R158 to R160). That O is empty once the job is over is the model's reading of
10_state.md R37 (notes/assumptions/10). -/
def Obligations.CellStepWritesOneSample : Prop :=
  ∀ s : State, Legal s → s.busy = true → ¬CellBusError s → ∃ (v : Byte) (t : State),
    cellValue s s.pos = .value v ∧ engineTurn s = .next t ∧
    t.mem.get (s.job.outAddr s.pos.row s.pos.col) = v ∧
    (∀ a, a ≠ s.job.outAddr s.pos.row s.pos.col → t.mem.get a = s.mem.get a) ∧
    t.pos = (if s.pos.col + 1 < s.job.w.toNat then ⟨s.pos.row, s.pos.col + 1⟩
      else ⟨s.pos.row + 1, 0⟩) ∧
    (t.pos ≠ ⟨s.job.h.toNat, 0⟩ →
      t = { s with mem := t.mem, pos := t.pos, history := ⟨s.pos, v⟩ :: s.history }) ∧
    (t.pos = ⟨s.job.h.toNat, 0⟩ →
      t = { s with mem := t.mem, pos := t.pos, history := [], busy := false, done := true })

/-- A bus error of a data access of the cell step ends the job: BUSY <- 0, DONE <- 1, ERR <- 1,
ERR_CODE <- 8, every output-plane byte is unspecified, and no other byte and no register changes
(41_command_sequencer.md R162, 60_exceptions.md R225). The model's own: an unspecified byte is
Config.freeByte at the counter freeCount (notes/assumptions/8), and O is emptied (10_state.md R37,
notes/assumptions/10). -/
def Obligations.BusErrorAbortsTheJob : Prop :=
  ∀ s : State, Legal s → s.busy = true → CellBusError s → ∃ t : State,
    engineTurn s = .next t ∧
    t = { s with
      busy := false
      done := true
      err := true
      errCode := 8#4
      history := []
      mem := t.mem
      freeCount := t.freeCount } ∧
    (∀ a, s.job.inOutput a = false → t.mem.get a = s.mem.get a) ∧
    ∀ a, s.job.inOutput a = true → t.mem.get a = Config.freeByte s.freeCount a

/-- The value of the cell at pos is the one the source's filter gives, over exact rationals, from the
input plane and, for IIR, from the output samples already in memory (42_filter_commands.md R182, R184,
R186, R189, R191, R192). -/
def Obligations.CellValueIsTheSourceFilter : Prop :=
  ∀ s : State, Legal s → s.busy = true → ¬CellBusError s → ∃ v : Byte,
    cellValue s s.pos = .value v ∧
    v.toNat = sourceCell s.job (planeAt s.mem s.job.src.toNat s.job.w.toNat)
      (planeAt s.mem s.job.dst.toNat s.job.w.toNat) s.pos.row s.pos.col

/-- The clip unit agrees with the source's quantizer on r = N / D (42_filter_commands.md R183, R184). -/
def Obligations.ClipUnitIsTheSourceQuantizer : Prop :=
  ∀ n d : Int, 0 < d → (quantize n d).toNat = sourceQuantize ((n : ℚ) / (d : ℚ))

/-- The accumulator adds the input samples at the coordinates (i - R + m, j - R + n), 0 <= m, n < K, that
lie inside the plane, and nothing for the others. The centre is one of them, so Acc(i, j) >= in(i, j)
(42_filter_commands.md R181). -/
def Obligations.AccumulatorIsTheWindowSum : Prop :=
  ∀ (s : State) (x : Coord) (n : Nat), accumulate s x = .value n →
    (n : ℚ) = windowSum (planeAt s.mem s.job.src.toNat s.job.w.toNat) s.job.h.toNat
      s.job.w.toNat s.job.k s.job.r (fun _ _ => 1) x.row x.col ∧
    (s.job.op ≠ .iir → KernelOk s.job → x.row < s.job.h.toNat → x.col < s.job.w.toNat →
      (s.mem.get (s.job.inAddr x.row x.col)).toNat ≤ n)

/-- 0 <= S <= 255 K^2, so S div K^2 lies in [0, 255] and the clip unit never changes a BOX result
(42_filter_commands.md R190 (a)). -/
def Obligations.ClipNeverChangesABoxResult : Prop :=
  ∀ (s : State) (x : Coord) (n : Nat), s.job.op ≠ .iir → KernelOk s.job →
    accumulate s x = .value n →
    n ≤ 255 * (s.job.k * s.job.k) ∧
      ∃ v, cellBox s x = .value v ∧ v.toNat = n / (s.job.k * s.job.k)

/-- λ = 0 is the identity, K = 1 is the identity for every λ and for BOX, and λ = -1 gives the BOX result
of the same K (42_filter_commands.md R190, R193). -/
def Obligations.SharpenCorners : Prop :=
  ∀ (s : State) (x : Coord) (v : Byte), KernelOk s.job → s.job.op ≠ .iir →
    x.row < s.job.h.toNat → x.col < s.job.w.toNat →
    (s.job.l = 0 → cellSharpen s x = .value v → v = s.mem.get (s.job.inAddr x.row x.col)) ∧
    (s.job.k = 1 → cellSharpen s x = .value v → v = s.mem.get (s.job.inAddr x.row x.col)) ∧
    (s.job.k = 1 → cellBox s x = .value v → v = s.mem.get (s.job.inAddr x.row x.col)) ∧
    (s.job.l = -65536 → cellSharpen s x = .value v → cellBox s x = .value v)

/-- A uniform input of value u gives u at every cell whose whole window is inside the plane, for BOX and
for SHARPEN with every λ (42_filter_commands.md R190, R193). -/
def Obligations.UniformInteriorIsFixed : Prop :=
  ∀ (s : State) (x : Coord) (u v : Byte), KernelOk s.job → s.job.op ≠ .iir →
    (∀ p q, p < s.job.h.toNat → q < s.job.w.toNat → s.mem.get (s.job.inAddr p q) = u) →
    s.job.r ≤ x.row → x.row + s.job.r < s.job.h.toNat → s.job.r ≤ x.col →
    x.col + s.job.r < s.job.w.toNat →
    (cellBox s x = .value v → v = u) ∧ (cellSharpen s x = .value v → v = u)

/-- The widths that 42_filter_commands.md R194 says suffice: IIR N lies in [-20655, 46155]; BOX S in
[0, 16581375] with K^2 <= 65025; for SHARPEN |K^2 xc - S| <= 255 (K^2 - 1) <= 16581120, |L| <= 2^31,
2^16 K^2 xc < 2^40, |N| < 2^56 and D < 2^32. -/
def Obligations.DatapathWidthsSuffice : Prop :=
  ∀ (s : State) (x : Coord) (b : Byte) (n : Nat), JobOk s.job →
    (-20655 ≤ iirNumerator s x b ∧ iirNumerator s x b ≤ 46155) ∧
    (s.job.op ≠ .iir → x.row < s.job.h.toNat → x.col < s.job.w.toNat →
      accumulate s x = .value n → b = s.mem.get (s.job.inAddr x.row x.col) →
      let k2 : Int := (s.job.k : Int) * s.job.k
      n ≤ 16581375 ∧ k2 ≤ 65025 ∧
      |k2 * b.toNat - n| ≤ 255 * (k2 - 1) ∧ 255 * (k2 - 1) ≤ 16581120 ∧
      |s.job.l| ≤ 2 ^ 31 ∧ 2 ^ 16 * k2 * b.toNat < 2 ^ 40 ∧
      |sharpenNumerator s.job b n| < 2 ^ 56 ∧
      0 < sharpenDenominator s.job ∧ sharpenDenominator s.job < 2 ^ 32)

/-- The engine reads only bytes of the input plane: the value of a cell does not depend on any other byte
of memory (20_memory.md R68, 42_filter_commands.md R180). -/
def Obligations.CellReadsOnlyTheInputPlane : Prop :=
  ∀ (s : State) (m : Memory) (x : Coord), x.row < s.job.h.toNat → x.col < s.job.w.toNat →
    (∀ a, s.job.inInput a = true → m.get a = s.mem.get a) →
    cellValue { s with mem := m } x = cellValue s x

/-! ## Whole jobs -/

/-- A job on a W x H plane whose accesses all answer completes after exactly W * H cell steps, with STATUS
DONE and its error as it was, and changes no register and no byte outside the output plane
(41_command_sequencer.md R160, 20_memory.md R70). The model's own: with nothing pending every step is the
engine's (notes/assumptions/6), and O is emptied at the end (notes/assumptions/10). -/
def Obligations.JobTakesOneStepPerCell : Prop :=
  ∀ s : State, Legal s → s.busy = true → s.pos = ⟨0, 0⟩ → s.inputs = [] → PlanesAdmitted s →
    (∀ n, n < s.job.count → ∃ t, core.run n s = .next t ∧ t.busy = true) ∧
    ∃ t : State, core.run s.job.count s = .next t ∧
      t = { s with
        busy := false
        done := true
        pos := ⟨s.job.h.toNat, 0⟩
        history := []
        mem := t.mem } ∧
      (t.err = true → t.errCode = 1#4) ∧
      ∀ a, s.job.inOutput a = false → t.mem.get a = s.mem.get a

/-- A job that completes has written every output-plane byte with the value its filter gives from the
input plane as it was at acceptance, whatever the host and the other agents did meanwhile, in place or
not; every input byte that is not an output byte is as it was (41_command_sequencer.md R163, 20_memory.md
R70, R80; 42_filter_commands.md R186, R189, R191). A job that did not complete was reset (DONE = 0) or
aborted (code 8). -/
def Obligations.CompletedJobHoldsItsFilter : Prop :=
  ∀ s u t : State, Legal s → s.busy = true → s.pos = ⟨0, 0⟩ → RunsBusy s u → u.busy = true →
    StepsTo u t → t.busy = false → t.done = true → t.errCode ≠ 8#4 →
    (∀ i j, i < s.job.h.toNat → j < s.job.w.toNat →
      planeAt t.mem s.job.dst.toNat s.job.w.toNat i j =
        sourceCell s.job (planeAt s.mem s.job.src.toNat s.job.w.toNat)
          (planeAt t.mem s.job.dst.toNat s.job.w.toNat) i j) ∧
    ∀ a, s.job.inInput a = true → s.job.inOutput a = false → t.mem.get a = s.mem.get a

/-- The values a completed job writes depend only on its kind, size, λ, dimensions and input samples: two
jobs that agree in these write the same output, whatever the schedule, the addresses, the platform, the
earlier jobs and the old output, in place or not (41_command_sequencer.md R163, R164, 20_memory.md
R80). -/
def Obligations.OutputDependsOnlyOnJobAndInput : Prop :=
  ∀ s u t s' u' t' : State,
    Legal s → s.busy = true → s.pos = ⟨0, 0⟩ → RunsBusy s u → u.busy = true → StepsTo u t →
    t.busy = false → t.done = true → t.errCode ≠ 8#4 →
    Legal s' → s'.busy = true → s'.pos = ⟨0, 0⟩ → RunsBusy s' u' → u'.busy = true →
    StepsTo u' t' → t'.busy = false → t'.done = true → t'.errCode ≠ 8#4 →
    s'.job = { s.job with src := s'.job.src, dst := s'.job.dst } →
    (∀ i j, i < s.job.h.toNat → j < s.job.w.toNat →
      planeAt s'.mem s'.job.src.toNat s.job.w.toNat i j =
        planeAt s.mem s.job.src.toNat s.job.w.toNat i j) →
    ∀ i j, i < s.job.h.toNat → j < s.job.w.toNat →
      planeAt t'.mem s'.job.dst.toNat s.job.w.toNat i j =
        planeAt t.mem s.job.dst.toNat s.job.w.toNat i j

/-- Every accepted job ends after finitely many steps, whatever the host does, unless an agent breaks the
rule that no one writes its planes, where the model refuses the run (41_command_sequencer.md R161,
20_memory.md R78; the schedule is notes/assumptions/6). -/
def Obligations.EveryJobEnds : Prop :=
  ∀ s : State, Legal s → s.busy = true → ∃ n,
    (∃ t : State, core.run n s = .next t ∧ t.busy = false) ∨
      core.run n s = .refused .hostInterference

/-- No move of the host stops, pauses or changes a running job: a register access, a data memory access
and a poll leave BUSY, JOB, pos and O as they are (41_command_sequencer.md R151, R161, 10_state.md R35,
R36). -/
def Obligations.HostCannotDisturbAJob : Prop :=
  ∀ (s t : State) (x : Input) (rest : List Input), s.inputs = x :: rest → s.busy = true →
    x ≠ .reset → x ≠ .engine → x ≠ .waitIrq → step s = .next t →
    t.busy = true ∧ t.job = s.job ∧ t.pos = s.pos ∧ t.history = s.history

/-- Memory changes only where a job writes or an agent does: a step whose move is not a data memory write
changes no byte but bytes of a running job's output plane (20_memory.md R68, R70,
70_reset_and_hazards.md R251, R252). -/
def Obligations.OnlyTheOutputPlaneIsWritten : Prop :=
  ∀ s t : State, Legal s → step s = .next t →
    (∀ a v rest, s.inputs ≠ .memWrite a v :: rest) →
    ∀ a, t.mem.get a ≠ s.mem.get a → s.busy = true ∧ s.job.inOutput a = true

/-! ## Invariants -/

/-- The state after reset is legal. -/
def Obligations.ResetIsLegal : Prop := Legal State.reset

/-- Every step from a legal state gives a legal state: memory keeps its canonical form, ERR = 0 implies
ERR_CODE = 0, BUSY = 1 and DONE = 1 never hold together, only codes 0 to 8 stand in ERR_CODE, the
snapshot of a running job has passed the checks, the scan stands inside the plane, and O holds exactly
the cells before it with the values in memory (10_state.md R23, R34 to R37; 60_exceptions.md R221).
While no job runs O is empty (notes/assumptions/10). -/
def Obligations.StepKeepsLegal : Prop := ∀ s t : State, Legal s → step s = .next t → Legal t

/-- From a legal state no step faults: no plane address wraps or runs past the data space (20_memory.md
R62). -/
def Obligations.LegalStatesNeverFault : Prop := ∀ (s : State) (f : Fault), Legal s → step s ≠ .fault f

/-- A step is refused exactly when an agent's next move writes a byte of the running job's input or output
plane (20_memory.md R78, 93_implementation_defined.md U6). -/
def Obligations.OnlyInterferenceIsRefused : Prop :=
  ∀ (s : State) (r : Refusal), step s = .refused r ↔
    r = .hostInterference ∧ s.busy = true ∧
      ∃ a v rest, s.inputs = .memWrite a v :: rest ∧
        (s.job.inInput a.toNat = true ∨ s.job.inOutput a.toNat = true)

/-- Two memories in canonical form that read alike everywhere are one memory (the form is the model's). -/
def Obligations.CanonicalMemoriesAreEqual : Prop :=
  ∀ m m' : Memory, m.wf = true → m'.wf = true → (∀ a, m.get a = m'.get a) → m = m'

/-! ## Reset, the host's data accesses and the platform -/

/-- Reset, at any time, puts every register to its reset value and the block to IDLE (10_state.md R20,
R38, 70_reset_and_hazards.md R250). It leaves data memory as it is, but for the output plane of a job it
cuts, whose bytes are unspecified (R251, R252). The model's own: an unspecified byte is Config.freeByte at
the counter freeCount (notes/assumptions/8), and reset leaves the moves still pending
(notes/assumptions/23). -/
def Obligations.ResetClearsTheBlock : Prop :=
  ∀ (s : State) (rest : List Input), s.inputs = .reset :: rest → ∃ t : State,
    step s = .next t ∧ t.busy = false ∧ t.done = false ∧ t.err = false ∧ t.errCode = 0#4 ∧
    t.irqEn = false ∧ irq t = false ∧ t.cmdLast = 0#32 ∧ t.width = 0#16 ∧ t.height = 0#16 ∧
    t.srcBase = 0#32 ∧ t.dstBase = 0#32 ∧ t.lambda = 0#32 ∧ t.platform = s.platform ∧
    t.inputs = rest ∧
    (s.busy = false → t.mem = s.mem) ∧
    (∀ a, s.job.inOutput a = false → t.mem.get a = s.mem.get a) ∧
    ∀ a, s.busy = true → s.job.inOutput a = true → a < 2 ^ 32 →
      t.mem.get a = Config.freeByte s.freeCount a

/-- After reset the engine does nothing, and a command written right after it, before WIDTH and HEIGHT are
programmed, is rejected with code 5 (70_reset_and_hazards.md R253). -/
def Obligations.CommandRightAfterResetIsBadDim : Prop :=
  ∀ (s t : State) (rest : List Input), s.inputs = .reset :: rest → step s = .next t →
    engineTurn t = .next t ∧
    ∀ i : Instr, (i = .cmdIir ∨ ∃ f : BitVec 8, (f.toNat = 0 ∨ f.toNat % 2 = 1) ∧
        (i = .cmdBox f ∨ i = .cmdSharpen f)) →
      Completes i t { t with err := true, errCode := 5#4, answer := .done }

/-- An agent's write to a byte that no running job owns stores that byte and nothing else; a host read
gives the byte, or an unspecified value for an output-plane byte of a running job (20_memory.md R61, R77).
The model's own: the unspecified value is Config.freeByte at the counter freeCount (notes/assumptions/8),
and MemAdmit does not bear on the host's own accesses (notes/assumptions/14). -/
def Obligations.HostDataAccesses : Prop :=
  ∀ (s : State) (a : Word) (rest : List Input),
    (∀ v : Byte, s.inputs = .memWrite a v :: rest →
      (s.busy = true → s.job.inInput a.toNat = false ∧ s.job.inOutput a.toNat = false) →
      ∃ t : State, step s = .next t ∧ t = { s with inputs := rest, mem := t.mem } ∧
        t.mem.get a.toNat = v ∧ ∀ b, b ≠ a.toNat → t.mem.get b = s.mem.get b) ∧
    (s.inputs = .memRead a :: rest →
      (¬(s.busy = true ∧ s.job.inOutput a.toNat = true) →
        step s = .next { s with inputs := rest, answer := .byte (s.mem.get a.toNat) }) ∧
      (s.busy = true ∧ s.job.inOutput a.toNat = true →
        step s = .next { s with
          inputs := rest
          answer := .byte (Config.freeByte s.freeCount a.toNat)
          freeCount := s.freeCount + 1 }))

/-- No step changes REG_BASE or MemAdmit (70_reset_and_hazards.md R252). -/
def Obligations.PlatformNeverChanges : Prop :=
  ∀ s t : State, step s = .next t → t.platform = s.platform

/-! ## A running job -/

/-- Every step of a running job keeps its output samples before pos right and its input bytes not yet
overwritten as they were at the start, whatever the step's move is, in place or not; a job at its first
cell has both of the memory as it then is (41_command_sequencer.md R158, R163, 20_memory.md R70, R79,
R80; 42_filter_commands.md R186, R189, R191). -/
def Obligations.StepKeepsTheOutputFaithful : Prop :=
  (∀ s : State, s.pos = ⟨0, 0⟩ → Faithful s.mem s) ∧
  ∀ (m : Memory) (s t : State), Legal s → s.busy = true → Faithful m s → step s = .next t →
    t.busy = true → Faithful m t ∧ t.job = s.job
end

