-- ==== Sys2Proof/Laws/Memory.lean ====
section
/-! SUPPORT. Data memory: a read after a write, and that every memory operation keeps the canonical
form. -/

namespace Sys2Proof.Machine

theorem inBytes_iff (base n a : Nat) : inBytes base n a = true ↔ base ≤ a ∧ a < base + n := by
  simp [inBytes]

/-! ## Reading after writing -/

theorem Memory.get_erase_same (m : Memory) (a : Nat) : (m.erase a).get a = unwrittenByte := by
  induction m with
  | nil => rfl
  | cons c t ih =>
    unfold Memory.erase at ih ⊢
    by_cases h : c.1 = a
    · simpa [h] using ih
    · simpa [h, Memory.get, Ne.symm h] using ih

theorem Memory.get_erase_other (m : Memory) {a b : Nat} (h : b ≠ a) :
    (m.erase a).get b = m.get b := by
  induction m with
  | nil => rfl
  | cons c t ih =>
    unfold Memory.erase at ih ⊢
    by_cases hc : c.1 = a
    · simpa [hc, Memory.get, h] using ih
    · by_cases hb : b = c.1 <;> simp [hc, Memory.get, hb]
      simpa [hb] using ih

theorem Memory.get_insert_same (m : Memory) (a : Nat) (v : Byte) : (m.insert a v).get a = v := by
  induction m with
  | nil => simp [Memory.insert, Memory.get]
  | cons c t ih =>
    unfold Memory.insert
    split
    · simp [Memory.get]
    · split
      · simp [Memory.get]
      · next h => simpa [Memory.get, h] using ih

theorem Memory.get_insert_other (m : Memory) {a b : Nat} (v : Byte) (h : b ≠ a) :
    (m.insert a v).get b = m.get b := by
  induction m with
  | nil => simp [Memory.insert, Memory.get, h]
  | cons c t ih =>
    unfold Memory.insert
    split
    · simp [Memory.get, h]
    · split
      · next hc => simp [Memory.get, h, ← hc]
      · simp [Memory.get, ih]

/-- A read after a write to the same address gives the value written. -/
@[simp] theorem Memory.get_set_same (m : Memory) (a : Nat) (v : Byte) : (m.set a v).get a = v := by
  unfold Memory.set
  split
  · next h => rw [Memory.get_erase_same, h]
  · exact Memory.get_insert_same m a v

/-- A write leaves every other address alone. -/
theorem Memory.get_set_other (m : Memory) {a b : Nat} (v : Byte) (h : b ≠ a) :
    (m.set a v).get b = m.get b := by
  unfold Memory.set
  split
  · exact Memory.get_erase_other m h
  · exact Memory.get_insert_other m v h

theorem Memory.get_set (m : Memory) (a b : Nat) (v : Byte) :
    (m.set a v).get b = if b = a then v else m.get b := by
  split
  · next h => subst h; exact Memory.get_set_same m b v
  · next h => exact Memory.get_set_other m v h

/-- A scramble leaves every address outside its bytes alone. -/
theorem Memory.get_scramble_other (m : Memory) (occ base n : Nat) {b : Nat}
    (h : inBytes base n b = false) : (m.scramble occ base n).get b = m.get b := by
  induction n with
  | zero => rfl
  | succ n ih =>
    have hn : inBytes base n b = false := by simp [inBytes] at h ⊢; omega
    have hb : b ≠ base + n := by simp [inBytes] at h; omega
    simp only [Memory.scramble]
    split
    · rw [Memory.get_set_other _ _ hb, ih hn]
    · exact ih hn

/-- A scramble gives every byte it takes in the free value of its occasion. -/
theorem Memory.get_scramble_inside (m : Memory) (occ base n : Nat) {b : Nat}
    (h : inBytes base n b = true) (hs : b < Config.dataSpace) :
    (m.scramble occ base n).get b = Config.freeByte occ b := by
  induction n with
  | zero => simp [inBytes] at h; omega
  | succ n ih =>
    simp only [Memory.scramble]
    by_cases hb : b = base + n
    · subst hb; simp [hs]
    · have hn : inBytes base n b = true := by simp [inBytes] at h ⊢; omega
      split
      · rw [Memory.get_set_other _ _ hb, ih hn]
      · exact ih hn

/-! ## The canonical form -/

theorem Memory.wf_cons (a : Nat) (v : Byte) (t : Memory) :
    Memory.wf ((a, v) :: t) = true ↔
      a < Config.dataSpace ∧ v ≠ unwrittenByte ∧ (∀ c ∈ t, a < c.1) ∧ Memory.wf t = true := by
  simp [Memory.wf, and_assoc]

theorem Memory.wf_erase {m : Memory} (h : m.wf = true) (a : Nat) : (m.erase a).wf = true := by
  induction m with
  | nil => rfl
  | cons c t ih =>
    obtain ⟨b, v⟩ := c
    obtain ⟨hb, hv, hlt, ht⟩ := (Memory.wf_cons b v t).mp h
    have ih := ih ht
    unfold Memory.erase at ih ⊢
    by_cases hc : b = a
    · simpa [hc] using ih
    · rw [List.filter_cons_of_pos (by simpa using hc)]
      exact (Memory.wf_cons b v _).mpr ⟨hb, hv, fun c hm => hlt c (List.mem_filter.mp hm).1, ih⟩

theorem Memory.mem_insert {m : Memory} {a : Nat} {v : Byte} {c : Host.Cell}
    (h : c ∈ m.insert a v) : c = (a, v) ∨ c ∈ m := by
  induction m with
  | nil => simpa [Memory.insert] using h
  | cons d t ih =>
    unfold Memory.insert at h
    split at h
    · simpa using h
    · split at h
      · rcases List.mem_cons.mp h with h | h
        · exact .inl h
        · exact .inr (List.mem_cons_of_mem _ h)
      · rcases List.mem_cons.mp h with h | h
        · exact .inr (h ▸ List.mem_cons_self)
        · exact (ih h).imp id (List.mem_cons_of_mem _)

theorem Memory.wf_insert {m : Memory} (h : m.wf = true) {a : Nat} {v : Byte}
    (ha : a < Config.dataSpace) (hv : v ≠ unwrittenByte) : (m.insert a v).wf = true := by
  induction m with
  | nil => exact (Memory.wf_cons a v []).mpr ⟨ha, hv, by simp, rfl⟩
  | cons c t ih =>
    obtain ⟨b, w⟩ := c
    obtain ⟨hb, hw, hlt, ht⟩ := (Memory.wf_cons b w t).mp h
    unfold Memory.insert
    split
    · next hab =>
      refine (Memory.wf_cons a v _).mpr ⟨ha, hv, fun c hm => ?_, h⟩
      rcases List.mem_cons.mp hm with rfl | hm
      · exact hab
      · exact lt_trans hab (hlt c hm)
    · split
      · next hab => exact (Memory.wf_cons a v t).mpr ⟨ha, hv, hab ▸ hlt, ht⟩
      · next h1 h2 =>
        refine (Memory.wf_cons b w _).mpr ⟨hb, hw, fun c hm => ?_, ih ht⟩
        rcases Memory.mem_insert hm with rfl | hm
        · simp at h1; omega
        · exact hlt c hm

/-- Writing a byte of the data space keeps the canonical form. -/
theorem Memory.wf_set {m : Memory} (h : m.wf = true) {a : Nat} (v : Byte)
    (ha : a < Config.dataSpace) : (m.set a v).wf = true := by
  unfold Memory.set
  split
  · exact Memory.wf_erase h a
  · next hv => exact Memory.wf_insert h ha hv

theorem Memory.wf_scramble {m : Memory} (h : m.wf = true) (occ base n : Nat) :
    (m.scramble occ base n).wf = true := by
  induction n with
  | zero => exact h
  | succ n ih =>
    simp only [Memory.scramble]
    split
    · next hb => exact Memory.wf_set ih _ hb
    · exact ih

end Sys2Proof.Machine
end

