-- ==== Sys2Proof/Laws/State.lean ====
section
/-! SUPPORT. What each shared update of the state does to each field, by rfl. -/

namespace Sys2Proof.Machine

@[simp] theorem recordError_irqEn (c : ErrCode) (s : State) :
    (recordError c s).irqEn = s.irqEn := rfl
@[simp] theorem recordError_busy (c : ErrCode) (s : State) : (recordError c s).busy = s.busy := rfl
@[simp] theorem recordError_done (c : ErrCode) (s : State) : (recordError c s).done = s.done := rfl
@[simp] theorem recordError_err (c : ErrCode) (s : State) : (recordError c s).err = true := rfl
@[simp] theorem recordError_errCode (c : ErrCode) (s : State) :
    (recordError c s).errCode = c.number := rfl
@[simp] theorem recordError_cmdLast (c : ErrCode) (s : State) :
    (recordError c s).cmdLast = s.cmdLast := rfl
@[simp] theorem recordError_width (c : ErrCode) (s : State) :
    (recordError c s).width = s.width := rfl
@[simp] theorem recordError_height (c : ErrCode) (s : State) :
    (recordError c s).height = s.height := rfl
@[simp] theorem recordError_srcBase (c : ErrCode) (s : State) :
    (recordError c s).srcBase = s.srcBase := rfl
@[simp] theorem recordError_dstBase (c : ErrCode) (s : State) :
    (recordError c s).dstBase = s.dstBase := rfl
@[simp] theorem recordError_lambda (c : ErrCode) (s : State) :
    (recordError c s).lambda = s.lambda := rfl
@[simp] theorem recordError_job (c : ErrCode) (s : State) : (recordError c s).job = s.job := rfl
@[simp] theorem recordError_pos (c : ErrCode) (s : State) : (recordError c s).pos = s.pos := rfl
@[simp] theorem recordError_history (c : ErrCode) (s : State) :
    (recordError c s).history = s.history := rfl
@[simp] theorem recordError_mem (c : ErrCode) (s : State) : (recordError c s).mem = s.mem := rfl
@[simp] theorem recordError_platform (c : ErrCode) (s : State) :
    (recordError c s).platform = s.platform := rfl
@[simp] theorem recordError_answer (c : ErrCode) (s : State) :
    (recordError c s).answer = s.answer := rfl
@[simp] theorem recordError_inputs (c : ErrCode) (s : State) :
    (recordError c s).inputs = s.inputs := rfl
@[simp] theorem recordError_freeCount (c : ErrCode) (s : State) :
    (recordError c s).freeCount = s.freeCount := rfl

@[simp] theorem cmdError_irqEn (c : ErrCode) (s : State) : (cmdError c s).irqEn = s.irqEn := rfl
@[simp] theorem cmdError_busy (c : ErrCode) (s : State) : (cmdError c s).busy = s.busy := rfl
@[simp] theorem cmdError_done (c : ErrCode) (s : State) : (cmdError c s).done = s.done := rfl
@[simp] theorem cmdError_err (c : ErrCode) (s : State) : (cmdError c s).err = true := rfl
@[simp] theorem cmdError_errCode (c : ErrCode) (s : State) :
    (cmdError c s).errCode = c.number := rfl
@[simp] theorem cmdError_cmdLast (c : ErrCode) (s : State) :
    (cmdError c s).cmdLast = s.cmdLast := rfl
@[simp] theorem cmdError_width (c : ErrCode) (s : State) : (cmdError c s).width = s.width := rfl
@[simp] theorem cmdError_height (c : ErrCode) (s : State) : (cmdError c s).height = s.height := rfl
@[simp] theorem cmdError_srcBase (c : ErrCode) (s : State) :
    (cmdError c s).srcBase = s.srcBase := rfl
@[simp] theorem cmdError_dstBase (c : ErrCode) (s : State) :
    (cmdError c s).dstBase = s.dstBase := rfl
@[simp] theorem cmdError_lambda (c : ErrCode) (s : State) : (cmdError c s).lambda = s.lambda := rfl
@[simp] theorem cmdError_job (c : ErrCode) (s : State) : (cmdError c s).job = s.job := rfl
@[simp] theorem cmdError_pos (c : ErrCode) (s : State) : (cmdError c s).pos = s.pos := rfl
@[simp] theorem cmdError_history (c : ErrCode) (s : State) :
    (cmdError c s).history = s.history := rfl
@[simp] theorem cmdError_mem (c : ErrCode) (s : State) : (cmdError c s).mem = s.mem := rfl
@[simp] theorem cmdError_platform (c : ErrCode) (s : State) :
    (cmdError c s).platform = s.platform := rfl
@[simp] theorem cmdError_answer (c : ErrCode) (s : State) : (cmdError c s).answer = s.answer := rfl
@[simp] theorem cmdError_inputs (c : ErrCode) (s : State) : (cmdError c s).inputs = s.inputs := rfl
@[simp] theorem cmdError_freeCount (c : ErrCode) (s : State) :
    (cmdError c s).freeCount = s.freeCount := rfl

@[simp] theorem hostBusError_irqEn (s : State) : (hostBusError s).irqEn = s.irqEn := rfl
@[simp] theorem hostBusError_busy (s : State) : (hostBusError s).busy = s.busy := rfl
@[simp] theorem hostBusError_done (s : State) : (hostBusError s).done = s.done := rfl
@[simp] theorem hostBusError_err (s : State) : (hostBusError s).err = s.err := rfl
@[simp] theorem hostBusError_errCode (s : State) : (hostBusError s).errCode = s.errCode := rfl
@[simp] theorem hostBusError_cmdLast (s : State) : (hostBusError s).cmdLast = s.cmdLast := rfl
@[simp] theorem hostBusError_width (s : State) : (hostBusError s).width = s.width := rfl
@[simp] theorem hostBusError_height (s : State) : (hostBusError s).height = s.height := rfl
@[simp] theorem hostBusError_srcBase (s : State) : (hostBusError s).srcBase = s.srcBase := rfl
@[simp] theorem hostBusError_dstBase (s : State) : (hostBusError s).dstBase = s.dstBase := rfl
@[simp] theorem hostBusError_lambda (s : State) : (hostBusError s).lambda = s.lambda := rfl
@[simp] theorem hostBusError_job (s : State) : (hostBusError s).job = s.job := rfl
@[simp] theorem hostBusError_pos (s : State) : (hostBusError s).pos = s.pos := rfl
@[simp] theorem hostBusError_history (s : State) : (hostBusError s).history = s.history := rfl
@[simp] theorem hostBusError_mem (s : State) : (hostBusError s).mem = s.mem := rfl
@[simp] theorem hostBusError_platform (s : State) : (hostBusError s).platform = s.platform := rfl
@[simp] theorem hostBusError_answer (s : State) : (hostBusError s).answer = .busError := rfl
@[simp] theorem hostBusError_inputs (s : State) : (hostBusError s).inputs = s.inputs := rfl
@[simp] theorem hostBusError_freeCount (s : State) : (hostBusError s).freeCount = s.freeCount := rfl

@[simp] theorem endJob_irqEn (s : State) : (endJob s).irqEn = s.irqEn := rfl
@[simp] theorem endJob_busy (s : State) : (endJob s).busy = false := rfl
@[simp] theorem endJob_done (s : State) : (endJob s).done = true := rfl
@[simp] theorem endJob_err (s : State) : (endJob s).err = s.err := rfl
@[simp] theorem endJob_errCode (s : State) : (endJob s).errCode = s.errCode := rfl
@[simp] theorem endJob_cmdLast (s : State) : (endJob s).cmdLast = s.cmdLast := rfl
@[simp] theorem endJob_width (s : State) : (endJob s).width = s.width := rfl
@[simp] theorem endJob_height (s : State) : (endJob s).height = s.height := rfl
@[simp] theorem endJob_srcBase (s : State) : (endJob s).srcBase = s.srcBase := rfl
@[simp] theorem endJob_dstBase (s : State) : (endJob s).dstBase = s.dstBase := rfl
@[simp] theorem endJob_lambda (s : State) : (endJob s).lambda = s.lambda := rfl
@[simp] theorem endJob_job (s : State) : (endJob s).job = s.job := rfl
@[simp] theorem endJob_pos (s : State) : (endJob s).pos = s.pos := rfl
@[simp] theorem endJob_history (s : State) : (endJob s).history = [] := rfl
@[simp] theorem endJob_mem (s : State) : (endJob s).mem = s.mem := rfl
@[simp] theorem endJob_platform (s : State) : (endJob s).platform = s.platform := rfl
@[simp] theorem endJob_answer (s : State) : (endJob s).answer = s.answer := rfl
@[simp] theorem endJob_inputs (s : State) : (endJob s).inputs = s.inputs := rfl
@[simp] theorem endJob_freeCount (s : State) : (endJob s).freeCount = s.freeCount := rfl

@[simp] theorem complete_irqEn (s : State) : (complete s).irqEn = s.irqEn := rfl
@[simp] theorem complete_busy (s : State) : (complete s).busy = false := rfl
@[simp] theorem complete_done (s : State) : (complete s).done = true := rfl
@[simp] theorem complete_err (s : State) : (complete s).err = s.err := rfl
@[simp] theorem complete_errCode (s : State) : (complete s).errCode = s.errCode := rfl
@[simp] theorem complete_cmdLast (s : State) : (complete s).cmdLast = s.cmdLast := rfl
@[simp] theorem complete_width (s : State) : (complete s).width = s.width := rfl
@[simp] theorem complete_height (s : State) : (complete s).height = s.height := rfl
@[simp] theorem complete_srcBase (s : State) : (complete s).srcBase = s.srcBase := rfl
@[simp] theorem complete_dstBase (s : State) : (complete s).dstBase = s.dstBase := rfl
@[simp] theorem complete_lambda (s : State) : (complete s).lambda = s.lambda := rfl
@[simp] theorem complete_job (s : State) : (complete s).job = s.job := rfl
@[simp] theorem complete_pos (s : State) : (complete s).pos = s.pos := rfl
@[simp] theorem complete_history (s : State) : (complete s).history = [] := rfl
@[simp] theorem complete_mem (s : State) : (complete s).mem = s.mem := rfl
@[simp] theorem complete_platform (s : State) : (complete s).platform = s.platform := rfl
@[simp] theorem complete_answer (s : State) : (complete s).answer = s.answer := rfl
@[simp] theorem complete_inputs (s : State) : (complete s).inputs = s.inputs := rfl
@[simp] theorem complete_freeCount (s : State) : (complete s).freeCount = s.freeCount := rfl

@[simp] theorem scrambleOutput_irqEn (s : State) : (scrambleOutput s).irqEn = s.irqEn := rfl
@[simp] theorem scrambleOutput_busy (s : State) : (scrambleOutput s).busy = s.busy := rfl
@[simp] theorem scrambleOutput_done (s : State) : (scrambleOutput s).done = s.done := rfl
@[simp] theorem scrambleOutput_err (s : State) : (scrambleOutput s).err = s.err := rfl
@[simp] theorem scrambleOutput_errCode (s : State) : (scrambleOutput s).errCode = s.errCode := rfl
@[simp] theorem scrambleOutput_cmdLast (s : State) : (scrambleOutput s).cmdLast = s.cmdLast := rfl
@[simp] theorem scrambleOutput_width (s : State) : (scrambleOutput s).width = s.width := rfl
@[simp] theorem scrambleOutput_height (s : State) : (scrambleOutput s).height = s.height := rfl
@[simp] theorem scrambleOutput_srcBase (s : State) : (scrambleOutput s).srcBase = s.srcBase := rfl
@[simp] theorem scrambleOutput_dstBase (s : State) : (scrambleOutput s).dstBase = s.dstBase := rfl
@[simp] theorem scrambleOutput_lambda (s : State) : (scrambleOutput s).lambda = s.lambda := rfl
@[simp] theorem scrambleOutput_job (s : State) : (scrambleOutput s).job = s.job := rfl
@[simp] theorem scrambleOutput_pos (s : State) : (scrambleOutput s).pos = s.pos := rfl
@[simp] theorem scrambleOutput_history (s : State) : (scrambleOutput s).history = s.history := rfl
@[simp] theorem scrambleOutput_mem (s : State) :
    (scrambleOutput s).mem = s.mem.scramble s.freeCount s.job.dst.toNat s.job.count := rfl
@[simp] theorem scrambleOutput_platform (s : State) :
    (scrambleOutput s).platform = s.platform := rfl
@[simp] theorem scrambleOutput_answer (s : State) : (scrambleOutput s).answer = s.answer := rfl
@[simp] theorem scrambleOutput_inputs (s : State) : (scrambleOutput s).inputs = s.inputs := rfl
@[simp] theorem scrambleOutput_freeCount (s : State) :
    (scrambleOutput s).freeCount = s.freeCount + 1 := rfl

@[simp] theorem jobAbort_irqEn (c : ErrCode) (s : State) : (jobAbort c s).irqEn = s.irqEn := rfl
@[simp] theorem jobAbort_busy (c : ErrCode) (s : State) : (jobAbort c s).busy = false := rfl
@[simp] theorem jobAbort_done (c : ErrCode) (s : State) : (jobAbort c s).done = true := rfl
@[simp] theorem jobAbort_err (c : ErrCode) (s : State) : (jobAbort c s).err = true := rfl
@[simp] theorem jobAbort_errCode (c : ErrCode) (s : State) :
    (jobAbort c s).errCode = c.number := rfl
@[simp] theorem jobAbort_cmdLast (c : ErrCode) (s : State) :
    (jobAbort c s).cmdLast = s.cmdLast := rfl
@[simp] theorem jobAbort_width (c : ErrCode) (s : State) : (jobAbort c s).width = s.width := rfl
@[simp] theorem jobAbort_height (c : ErrCode) (s : State) : (jobAbort c s).height = s.height := rfl
@[simp] theorem jobAbort_srcBase (c : ErrCode) (s : State) :
    (jobAbort c s).srcBase = s.srcBase := rfl
@[simp] theorem jobAbort_dstBase (c : ErrCode) (s : State) :
    (jobAbort c s).dstBase = s.dstBase := rfl
@[simp] theorem jobAbort_lambda (c : ErrCode) (s : State) : (jobAbort c s).lambda = s.lambda := rfl
@[simp] theorem jobAbort_job (c : ErrCode) (s : State) : (jobAbort c s).job = s.job := rfl
@[simp] theorem jobAbort_pos (c : ErrCode) (s : State) : (jobAbort c s).pos = s.pos := rfl
@[simp] theorem jobAbort_history (c : ErrCode) (s : State) : (jobAbort c s).history = [] := rfl
@[simp] theorem jobAbort_mem (c : ErrCode) (s : State) :
    (jobAbort c s).mem = s.mem.scramble s.freeCount s.job.dst.toNat s.job.count := rfl
@[simp] theorem jobAbort_platform (c : ErrCode) (s : State) :
    (jobAbort c s).platform = s.platform := rfl
@[simp] theorem jobAbort_answer (c : ErrCode) (s : State) : (jobAbort c s).answer = s.answer := rfl
@[simp] theorem jobAbort_inputs (c : ErrCode) (s : State) : (jobAbort c s).inputs = s.inputs := rfl
@[simp] theorem jobAbort_freeCount (c : ErrCode) (s : State) :
    (jobAbort c s).freeCount = s.freeCount + 1 := rfl

@[simp] theorem clearStatus_irqEn (v : Word) (s : State) : (clearStatus v s).irqEn = s.irqEn := rfl
@[simp] theorem clearStatus_busy (v : Word) (s : State) : (clearStatus v s).busy = s.busy := rfl
@[simp] theorem clearStatus_done (v : Word) (s : State) :
    (clearStatus v s).done = (s.done && !v.getLsbD 1) := rfl
@[simp] theorem clearStatus_err (v : Word) (s : State) :
    (clearStatus v s).err = (s.err && !v.getLsbD 2) := rfl
@[simp] theorem clearStatus_errCode (v : Word) (s : State) :
    (clearStatus v s).errCode = if v.getLsbD 2 then 0#4 else s.errCode := rfl
@[simp] theorem clearStatus_cmdLast (v : Word) (s : State) :
    (clearStatus v s).cmdLast = s.cmdLast := rfl
@[simp] theorem clearStatus_width (v : Word) (s : State) : (clearStatus v s).width = s.width := rfl
@[simp] theorem clearStatus_height (v : Word) (s : State) :
    (clearStatus v s).height = s.height := rfl
@[simp] theorem clearStatus_srcBase (v : Word) (s : State) :
    (clearStatus v s).srcBase = s.srcBase := rfl
@[simp] theorem clearStatus_dstBase (v : Word) (s : State) :
    (clearStatus v s).dstBase = s.dstBase := rfl
@[simp] theorem clearStatus_lambda (v : Word) (s : State) :
    (clearStatus v s).lambda = s.lambda := rfl
@[simp] theorem clearStatus_job (v : Word) (s : State) : (clearStatus v s).job = s.job := rfl
@[simp] theorem clearStatus_pos (v : Word) (s : State) : (clearStatus v s).pos = s.pos := rfl
@[simp] theorem clearStatus_history (v : Word) (s : State) :
    (clearStatus v s).history = s.history := rfl
@[simp] theorem clearStatus_mem (v : Word) (s : State) : (clearStatus v s).mem = s.mem := rfl
@[simp] theorem clearStatus_platform (v : Word) (s : State) :
    (clearStatus v s).platform = s.platform := rfl
@[simp] theorem clearStatus_answer (v : Word) (s : State) :
    (clearStatus v s).answer = s.answer := rfl
@[simp] theorem clearStatus_inputs (v : Word) (s : State) :
    (clearStatus v s).inputs = s.inputs := rfl
@[simp] theorem clearStatus_freeCount (v : Word) (s : State) :
    (clearStatus v s).freeCount = s.freeCount := rfl

@[simp] theorem accept_irqEn (op : FilterKind) (k : Nat) (v : Word) (s : State) :
    (accept op k v s).irqEn = s.irqEn := rfl
@[simp] theorem accept_busy (op : FilterKind) (k : Nat) (v : Word) (s : State) :
    (accept op k v s).busy = true := rfl
@[simp] theorem accept_done (op : FilterKind) (k : Nat) (v : Word) (s : State) :
    (accept op k v s).done = false := rfl
@[simp] theorem accept_err (op : FilterKind) (k : Nat) (v : Word) (s : State) :
    (accept op k v s).err = false := rfl
@[simp] theorem accept_errCode (op : FilterKind) (k : Nat) (v : Word) (s : State) :
    (accept op k v s).errCode = 0#4 := rfl
@[simp] theorem accept_cmdLast (op : FilterKind) (k : Nat) (v : Word) (s : State) :
    (accept op k v s).cmdLast = v := rfl
@[simp] theorem accept_width (op : FilterKind) (k : Nat) (v : Word) (s : State) :
    (accept op k v s).width = s.width := rfl
@[simp] theorem accept_height (op : FilterKind) (k : Nat) (v : Word) (s : State) :
    (accept op k v s).height = s.height := rfl
@[simp] theorem accept_srcBase (op : FilterKind) (k : Nat) (v : Word) (s : State) :
    (accept op k v s).srcBase = s.srcBase := rfl
@[simp] theorem accept_dstBase (op : FilterKind) (k : Nat) (v : Word) (s : State) :
    (accept op k v s).dstBase = s.dstBase := rfl
@[simp] theorem accept_lambda (op : FilterKind) (k : Nat) (v : Word) (s : State) :
    (accept op k v s).lambda = s.lambda := rfl
@[simp] theorem accept_job (op : FilterKind) (k : Nat) (v : Word) (s : State) :
    (accept op k v s).job = snapshot op k s := rfl
@[simp] theorem accept_pos (op : FilterKind) (k : Nat) (v : Word) (s : State) :
    (accept op k v s).pos = ⟨0, 0⟩ := rfl
@[simp] theorem accept_history (op : FilterKind) (k : Nat) (v : Word) (s : State) :
    (accept op k v s).history = [] := rfl
@[simp] theorem accept_mem (op : FilterKind) (k : Nat) (v : Word) (s : State) :
    (accept op k v s).mem = s.mem := rfl
@[simp] theorem accept_platform (op : FilterKind) (k : Nat) (v : Word) (s : State) :
    (accept op k v s).platform = s.platform := rfl
@[simp] theorem accept_answer (op : FilterKind) (k : Nat) (v : Word) (s : State) :
    (accept op k v s).answer = s.answer := rfl
@[simp] theorem accept_inputs (op : FilterKind) (k : Nat) (v : Word) (s : State) :
    (accept op k v s).inputs = s.inputs := rfl
@[simp] theorem accept_freeCount (op : FilterKind) (k : Nat) (v : Word) (s : State) :
    (accept op k v s).freeCount = s.freeCount := rfl

end Sys2Proof.Machine
end

