-- ==== Sys2Proof/Laws/Ops.lean ====
section
/-! SUPPORT. For each shared operation, once, everything it can do: the engine's accesses, the end of a
job, Command(v) and the values of a cell. -/

namespace Sys2Proof.Machine

/-! ## The engine's accesses -/

theorem memRead_value_iff (s : State) (a : Nat) (v : Byte) :
    memRead s a = .value v ↔
      a < Config.dataSpace ∧ memAdmit s.platform .read a = true ∧ v = s.mem.get a := by
  unfold memRead
  split
  · simp; omega
  · next h =>
    have h : a < Config.dataSpace := by omega
    split
    · next hm => simpa [h, hm] using eq_comm
    · next hm => simp [hm]

theorem memRead_noAddress_iff (s : State) (a : Nat) :
    memRead s a = .noAddress ↔ Config.dataSpace ≤ a := by
  unfold memRead
  split
  · simpa
  · split <;> simp_all

theorem memWrite_value_iff (s : State) (a : Nat) (v : Byte) (m : Memory) :
    memWrite s a v = .value m ↔
      a < Config.dataSpace ∧ memAdmit s.platform .write a = true ∧ m = s.mem.set a v := by
  unfold memWrite
  split
  · simp; omega
  · next h =>
    have h : a < Config.dataSpace := by omega
    split
    · next hm => simpa [h, hm] using eq_comm
    · next hm => simp [hm]

theorem memWrite_noAddress_iff (s : State) (a : Nat) (v : Byte) :
    memWrite s a v = .noAddress ↔ Config.dataSpace ≤ a := by
  unfold memWrite
  split
  · simpa
  · split <;> simp_all

/-- The platform's holes can stand for every predicate: an address is admitted exactly when no hole
of that direction takes it in. -/
theorem memAdmit_iff (p : Platform) (d : Dir) (a : Nat) :
    memAdmit p d a = true ↔ ∀ h ∈ p.holes, ¬(h.dir = d ∧ h.base ≤ a ∧ a < h.base + h.size) := by
  simp only [memAdmit, Hole.covers, inBytes, List.all_eq_true, Bool.not_eq_true',
    Bool.and_eq_false_iff, decide_eq_false_iff_not]
  exact forall₂_congr fun h _ => by tauto

/-! ## The output history -/

theorem findCell_some_mem {l : List HistoryCell} {x : Coord} {v : Byte}
    (h : findCell l x = some v) : ⟨x, v⟩ ∈ l := by
  induction l with
  | nil => simp [findCell] at h
  | cons c t ih =>
    unfold findCell at h
    split at h
    · next hc => cases h; subst hc; exact List.mem_cons_self
    · exact List.mem_cons_of_mem _ (ih h)

theorem findCell_isSome_iff (l : List HistoryCell) (x : Coord) :
    (findCell l x).isSome = true ↔ ∃ c ∈ l, c.at_ = x := by
  induction l with
  | nil => simp [findCell]
  | cons c t ih =>
    unfold findCell
    split
    · next h => simp [h]
    · next h => simp [ih, h]

/-- A computed coordinate reads as the value written for it. -/
theorem historyGet_of_find {s : State} {p q : Nat} {v : Byte}
    (h : findCell s.history ⟨p, q⟩ = some v) : historyGet s p q = v := by
  simp [historyGet, h]

/-! ## The clip unit -/

theorem clamp_bounds (v : Int) : 0 ≤ clamp v 0 255 ∧ clamp v 0 255 ≤ 255 := by
  unfold clamp; split <;> [skip; split] <;> omega

theorem quantize_toNat (n d : Int) : (quantize n d).toNat = (clamp (n / d) 0 255).toNat := by
  have h := clamp_bounds (n / d)
  simp only [quantize, BitVec.toNat_ofNat]
  omega

/-! ## Cells -/

/-- A sum that has a value read every listed input sample; one without a value met a bus error or an
address the data space does not have. -/
theorem sumInputs_value {s : State} {l : List Coord} {n : Nat} (h : sumInputs s l = .value n) :
    (∀ x ∈ l, ∃ v, readInput s x = .value v) ∧
      n = (l.map fun x => (s.mem.get (s.job.inAddr x.row x.col)).toNat).sum := by
  induction l generalizing n with
  | nil => simp [sumInputs] at h; simp [← h]
  | cons x t ih =>
    unfold sumInputs at h
    split at h
    · next v hv =>
      split at h
      · next k hk =>
        cases h
        obtain ⟨h1, h2⟩ := ih hk
        refine ⟨fun y hy => ?_, ?_⟩
        · rcases List.mem_cons.mp hy with rfl | hy
          · exact ⟨v, hv⟩
          · exact h1 y hy
        · have := ((memRead_value_iff ..).mp hv).2.2
          simp [h2, this]
      · cases h
      · cases h
    · cases h
    · cases h

theorem sumInputs_of_readable {s : State} {l : List Coord}
    (h : ∀ x ∈ l, ∃ v, readInput s x = .value v) : ∃ n, sumInputs s l = .value n := by
  induction l with
  | nil => exact ⟨0, rfl⟩
  | cons x t ih =>
    obtain ⟨v, hv⟩ := h x List.mem_cons_self
    obtain ⟨n, hn⟩ := ih fun y hy => h y (List.mem_cons_of_mem _ hy)
    exact ⟨v.toNat + n, by simp [sumInputs, hv, hn]⟩

theorem sumInputs_noAddress {s : State} {l : List Coord} (h : sumInputs s l = .noAddress) :
    ∃ x ∈ l, readInput s x = .noAddress := by
  induction l with
  | nil => cases h
  | cons x t ih =>
    unfold sumInputs at h
    split at h
    · split at h
      · cases h
      · cases h
      · next hk =>
        obtain ⟨y, hy, hr⟩ := ih hk
        exact ⟨y, List.mem_cons_of_mem _ hy, hr⟩
    · cases h
    · next hx => exact ⟨x, List.mem_cons_self, hx⟩

/-- Every coordinate of a window lies inside the plane: the boundary mux reads nothing else
(42_filter_commands.md R180, 20_memory.md R68). -/
theorem window_inside {j : Job} {x y : Coord} (h : y ∈ window j x) :
    y.row < j.h.toNat ∧ y.col < j.w.toNat := by
  simp only [window, List.mem_flatMap, List.mem_filterMap] at h
  obtain ⟨m, -, n, -, h⟩ := h
  unfold neighbour at h
  simp only at h
  split at h
  · next hi =>
    cases h
    simp only [inside, Bool.and_eq_true, decide_eq_true_eq] at hi
    simp only
    omega
  · cases h

theorem readInput_congr {s t : State} (hj : t.job = s.job) (hm : t.mem = s.mem)
    (hp : t.platform = s.platform) (x : Coord) : readInput t x = readInput s x := by
  simp [readInput, memRead, hj, hm, hp]

theorem sumInputs_congr {s t : State} (hj : t.job = s.job) (hm : t.mem = s.mem)
    (hp : t.platform = s.platform) (l : List Coord) : sumInputs t l = sumInputs s l := by
  induction l with
  | nil => rfl
  | cons x l ih => simp only [sumInputs, ih, readInput_congr hj hm hp]

/-- The value of a cell comes from JOB, memory, the platform and O alone. -/
theorem cellValue_congr {s t : State} (hj : t.job = s.job) (hm : t.mem = s.mem)
    (hp : t.platform = s.platform) (hh : t.history = s.history) (hf : t.freeCount = s.freeCount)
    (x : Coord) : cellValue t x = cellValue s x := by
  simp only [cellValue, cellIir, cellBox, cellSharpen, accumulate, iirNumerator, historyGet, hj, hh,
    hf, readInput_congr hj hm hp, sumInputs_congr hj hm hp]

/-! ## Command(v) -/

/-- What Command(v) can do: record the code of the failing check, or start the job. -/
theorem command_cases (v : Word) (s : State) :
    (∃ c, checkCommand v s = .error c ∧ command v s = cmdError c s) ∨
      ∃ op k, checkCommand v s = .ok (op, k) ∧ command v s = accept op k v s := by
  unfold command
  split
  · next c h => exact .inl ⟨c, h, rfl⟩
  · next op k h => exact .inr ⟨op, k, h, rfl⟩

/-- The checks of planes that pass. -/
theorem checkPlanes_ok_iff (op : FilterKind) (s : State) (u : Unit) :
    checkPlanes op s = .ok u ↔
      s.width ≠ 0 ∧ s.height ≠ 0 ∧
        s.srcBase.toNat + s.width.toNat * s.height.toNat ≤ Config.dataSpace ∧
        s.dstBase.toNat + s.width.toNat * s.height.toNat ≤ Config.dataSpace ∧
        placementOk op s.srcBase.toNat s.dstBase.toNat (s.width.toNat * s.height.toNat) = true := by
  simp only [checkPlanes]
  split
  · next h => simp only [reduceCtorEq, false_iff]; tauto
  · next h =>
    split
    · next h' => simp only [reduceCtorEq, false_iff]; omega
    · next h' =>
      split
      · next hp => simp [hp]
      · next hp =>
        simp only [true_iff]
        refine ⟨fun e => h (.inl e), fun e => h (.inr e), by omega, by omega, by simpa using hp⟩

/-- The codes a failing check of the planes records. -/
theorem checkPlanes_error {op : FilterKind} {s : State} {c : ErrCode}
    (h : checkPlanes op s = .error c) : c = .badDim ∨ c = .badRange ∨ c = .overlap := by
  simp only [checkPlanes] at h
  split at h
  · cases h; simp
  · split at h
    · cases h; simp
    · split at h
      · cases h; simp
      · cases h

theorem resolveK_error {op : FilterKind} {f : BitVec 8} {c : ErrCode}
    (h : resolveK op f = .error c) : c = .badFsize := by
  cases op <;> simp only [resolveK] at h <;> repeat' split at h
  all_goals cases h; try rfl

/-- A kernel side that is resolved is 0 for IIR and odd, 1 to 255, for the other kinds. -/
theorem resolveK_ok {op : FilterKind} {f : BitVec 8} {k : Nat} (h : resolveK op f = .ok k) :
    (op = .iir → k = 0) ∧ (op ≠ .iir → k % 2 = 1 ∧ k ≤ 255) := by
  have hf := f.isLt
  cases op <;> simp only [resolveK] at h <;> repeat' split at h
  all_goals cases h
  all_goals simp [Config.boxDefaultK, Config.sharpenDefaultK]
  all_goals omega

/-- A command that passes every check. -/
theorem checkCommand_ok {v : Word} {s : State} {op : FilterKind} {k : Nat}
    (h : checkCommand v s = .ok (op, k)) :
    s.busy = false ∧ wordRsv0 v = 0 ∧ wordRsv1 v = 0 ∧ kindOfOp (wordOp v) = some op ∧
      resolveK op (wordFsize v) = .ok k ∧ checkPlanes op s = .ok () := by
  unfold checkCommand at h
  split at h
  · cases h
  · next hb =>
    split at h
    · cases h
    · next hr =>
      split at h
      · cases h
      · next op' hk =>
        split at h
        · cases h
        · next k' hres =>
          split at h
          · cases h
          · next hp =>
            cases h
            push Not at hr
            exact ⟨by simpa using hb, hr.1, hr.2, hk, hres, hp⟩

/-- A command is never turned away with code 0 or code 8. -/
theorem checkCommand_error {v : Word} {s : State} {c : ErrCode} (h : checkCommand v s = .error c) :
    c ≠ .none ∧ c ≠ .bus ∧ (s.busy = true → c = .busy) := by
  unfold checkCommand at h
  split at h
  · cases h; simp
  · next hb =>
    split at h
    · cases h; simp [hb]
    · split at h
      · cases h; simp [hb]
      · split at h
        · next hres => cases h; rw [resolveK_error hres]; simp [hb]
        · split at h
          · next hp => cases h; rcases checkPlanes_error hp with rfl | rfl | rfl <;> simp [hb]
          · cases h

end Sys2Proof.Machine
end

