-- ==== Sys2Proof/Laws/Engine.lean ====
section
/-! SUPPORT. Everything a cell step of the engine can do, once (spec/41_command_sequencer.md R158). -/

namespace Sys2Proof.Machine

/-- What finishing a cell does: the scan goes on, or the job is complete. -/
theorem finishCell_cases (s : State) (m : Memory) (v : Byte) :
    (nextPos s.job.w.toNat s.pos ≠ ⟨s.job.h.toNat, 0⟩ ∧
      finishCell s m v =
        { s with
          mem := m
          history := ⟨s.pos, v⟩ :: s.history
          pos := nextPos s.job.w.toNat s.pos }) ∨
    (nextPos s.job.w.toNat s.pos = ⟨s.job.h.toNat, 0⟩ ∧
      finishCell s m v =
        { s with
          mem := m
          history := []
          pos := nextPos s.job.w.toNat s.pos
          busy := false
          done := true }) := by
  simp only [finishCell]
  split
  · next h => exact .inr ⟨h, rfl⟩
  · next h => exact .inl ⟨h, rfl⟩

/-- The ways a cell step ends: the cell is written, the job is aborted by a bus error, or an address of
the cell lies outside the data space. -/
inductive CellStepEnds (s : State) : Host.Outcome State Fault Refusal → Prop where
  | wrote (v : Byte) (hv : cellValue s s.pos = .value v)
      (ha : s.job.outAddr s.pos.row s.pos.col < Config.dataSpace)
      (hm : memAdmit s.platform .write (s.job.outAddr s.pos.row s.pos.col) = true) :
      CellStepEnds s
        (.next (finishCell s (s.mem.set (s.job.outAddr s.pos.row s.pos.col) v) v))
  | aborted
      (h : cellValue s s.pos = .busError ∨
        memAdmit s.platform .write (s.job.outAddr s.pos.row s.pos.col) = false) :
      CellStepEnds s (.next (jobAbort .bus s))
  | outside
      (h : cellValue s s.pos = .noAddress ∨
        Config.dataSpace ≤ s.job.outAddr s.pos.row s.pos.col) :
      CellStepEnds s (.fault .noSuchAddress)

theorem cellStep_cases (s : State) : CellStepEnds s (cellStep s) := by
  unfold cellStep
  split
  · next v hv =>
    split
    · next m hm =>
      obtain ⟨h1, h2, rfl⟩ := (memWrite_value_iff ..).mp hm
      exact .wrote v hv h1 h2
    · next hm =>
      refine .aborted (.inr ?_)
      unfold memWrite at hm
      split at hm
      · cases hm
      · split at hm
        · cases hm
        · next h => simpa using h
    · next hm => exact .outside (.inr ((memWrite_noAddress_iff ..).mp hm))
  · next hv => exact .aborted (.inl hv)
  · next hv => exact .outside (.inl hv)

/-- The next position of a scan inside the plane has the next number. -/
theorem rank_nextPos {w : Nat} {c : Coord} (h : c.col < w) :
    rank w (nextPos w c) = rank w c + 1 ∧ (nextPos w c).col < w := by
  unfold nextPos rank
  split
  · next h' => exact ⟨by simp only; omega, h'⟩
  · next h' =>
    have : c.col + 1 = w := by omega
    refine ⟨?_, by simp only; omega⟩
    simp only [Nat.add_zero, Nat.succ_mul]
    omega

end Sys2Proof.Machine
end

