-- ==== Sys2Proof/Laws/PerInstr.lean ====
section
/-! SUPPORT. Facts about every operation as syntax, one lemma per constructor. -/

namespace Sys2Proof.Laws.EncodedForm

/-- The operation's transaction has the form of its row (30_encoding.md R90, R91): WRITE is 1 exactly
for a write, a well-formed read carries no WDATA, and SIZE is 4 for every row but ILLEGAL.ACCESS. -/
def Statement (i : Instr) : Prop :=
  (encode i).write = i.isWrite ∧
    (i.wf = true → i.isWrite = false → (encode i).wdata = 0) ∧
    (i.mnemonic ≠ "ILLEGAL.ACCESS" → (encode i).size = 4)

theorem rdId : Statement .rdId := ⟨rfl, fun _ _ => rfl, fun _ => rfl⟩

theorem wrId (v : Word) : Statement (.wrId v) :=
  ⟨rfl, fun _ (h : true = false) => (nomatch h), fun _ => rfl⟩

theorem rdCtrl : Statement .rdCtrl := ⟨rfl, fun _ _ => rfl, fun _ => rfl⟩

theorem wrCtrl (v : Word) : Statement (.wrCtrl v) :=
  ⟨rfl, fun _ (h : true = false) => (nomatch h), fun _ => rfl⟩

theorem rdStatus : Statement .rdStatus := ⟨rfl, fun _ _ => rfl, fun _ => rfl⟩

theorem wrStatus (v : Word) : Statement (.wrStatus v) :=
  ⟨rfl, fun _ (h : true = false) => (nomatch h), fun _ => rfl⟩

theorem rdCmd : Statement .rdCmd := ⟨rfl, fun _ _ => rfl, fun _ => rfl⟩

theorem cmdIir : Statement .cmdIir :=
  ⟨rfl, fun _ (h : true = false) => (nomatch h), fun _ => rfl⟩

theorem cmdBox (f : BitVec 8) : Statement (.cmdBox f) :=
  ⟨rfl, fun _ (h : true = false) => (nomatch h), fun _ => rfl⟩

theorem cmdSharpen (f : BitVec 8) : Statement (.cmdSharpen f) :=
  ⟨rfl, fun _ (h : true = false) => (nomatch h), fun _ => rfl⟩

theorem wrCmd (v : Word) : Statement (.wrCmd v) :=
  ⟨rfl, fun _ (h : true = false) => (nomatch h), fun _ => rfl⟩

theorem rdWidth : Statement .rdWidth := ⟨rfl, fun _ _ => rfl, fun _ => rfl⟩

theorem wrWidth (v : Word) : Statement (.wrWidth v) :=
  ⟨rfl, fun _ (h : true = false) => (nomatch h), fun _ => rfl⟩

theorem rdHeight : Statement .rdHeight := ⟨rfl, fun _ _ => rfl, fun _ => rfl⟩

theorem wrHeight (v : Word) : Statement (.wrHeight v) :=
  ⟨rfl, fun _ (h : true = false) => (nomatch h), fun _ => rfl⟩

theorem rdSrcBase : Statement .rdSrcBase := ⟨rfl, fun _ _ => rfl, fun _ => rfl⟩

theorem wrSrcBase (v : Word) : Statement (.wrSrcBase v) :=
  ⟨rfl, fun _ (h : true = false) => (nomatch h), fun _ => rfl⟩

theorem rdDstBase : Statement .rdDstBase := ⟨rfl, fun _ _ => rfl, fun _ => rfl⟩

theorem wrDstBase (v : Word) : Statement (.wrDstBase v) :=
  ⟨rfl, fun _ (h : true = false) => (nomatch h), fun _ => rfl⟩

theorem rdLambda : Statement .rdLambda := ⟨rfl, fun _ _ => rfl, fun _ => rfl⟩

theorem wrLambda (v : Word) : Statement (.wrLambda v) :=
  ⟨rfl, fun _ (h : true = false) => (nomatch h), fun _ => rfl⟩

theorem rdRsvd (o : BitVec 12) : Statement (.rdRsvd o) := ⟨rfl, fun _ _ => rfl, fun _ => rfl⟩

theorem wrRsvd (o : BitVec 12) (v : Word) : Statement (.wrRsvd o v) :=
  ⟨rfl, fun _ (h : true = false) => (nomatch h), fun _ => rfl⟩

theorem illegalAccess (w : Bool) (o : BitVec 12) (n : Nat) (v : Word) :
    Statement (.illegalAccess w o n v) :=
  ⟨rfl, fun h hw => by simp_all [Instr.wf, Instr.isWrite, encode], fun h => absurd rfl h⟩

end Sys2Proof.Laws.EncodedForm
end

