-- ==== Sys2Proof/Laws/Step.lean ====
section
/-! SUPPORT. What a register access and a step can do, once. -/

namespace Sys2Proof.Machine

/-- An operation always answers a next state. -/
theorem exec_next (i : Instr) (s : State) : ∃ t, exec i s = .next t := by
  cases i <;> exact ⟨_, rfl⟩

/-- An operation leaves the engine's side of the state alone, but for the job a command starts: memory,
the platform, the pending moves and the free values stay, and unless a command is accepted so do BUSY,
JOB, pos, O and CMD_LAST. -/
theorem exec_keeps {i : Instr} {s t : State} (h : exec i s = .next t) :
    t.mem = s.mem ∧ t.platform = s.platform ∧ t.inputs = s.inputs ∧ t.freeCount = s.freeCount ∧
      ((t.busy = s.busy ∧ t.job = s.job ∧ t.pos = s.pos ∧ t.history = s.history ∧
          t.cmdLast = s.cmdLast) ∨
        ∃ op k v, checkCommand v s = .ok (op, k) ∧
          t = { accept op k v s with answer := .done }) := by
  have hcmd : ∀ v, answerWrite (command v s) = .next t →
      t.mem = s.mem ∧ t.platform = s.platform ∧ t.inputs = s.inputs ∧ t.freeCount = s.freeCount ∧
      ((t.busy = s.busy ∧ t.job = s.job ∧ t.pos = s.pos ∧ t.history = s.history ∧
          t.cmdLast = s.cmdLast) ∨
        ∃ op k v, checkCommand v s = .ok (op, k) ∧
          t = { accept op k v s with answer := .done }) := by
    intro v hv
    rcases command_cases v s with ⟨c, -, he⟩ | ⟨op, k, hc, he⟩
    · rw [he] at hv; cases hv; simp
    · rw [he] at hv; cases hv
      exact ⟨rfl, rfl, rfl, rfl, .inr ⟨op, k, v, hc, rfl⟩⟩
  cases i <;> first
    | exact hcmd _ h
    | (cases h; exact ⟨rfl, rfl, rfl, rfl, .inl ⟨rfl, rfl, rfl, rfl, rfl⟩⟩)

/-- One more step after a run that goes on, for any machine. -/
theorem run_succ {M : Host.Core} {n : Nat} {s u : M.State} (h : M.run n s = .next u) :
    M.run (n + 1) s = M.step u := by
  induction n generalizing s with
  | zero =>
    cases h
    unfold Host.Core.run
    cases M.step u <;> rfl
  | succ n ih =>
    unfold Host.Core.run at h ⊢
    cases hs : M.step s with
    | next t => rw [hs] at h; exact ih h
    | fault r => rw [hs] at h; cases h
    | refused r => rw [hs] at h; cases h

/-- The window takes in the host's own access to a transaction, and gives the transaction back. -/
theorem selectWindow_busAccessOf (p : Platform) (t : Transaction) :
    selectWindow p (busAccessOf p t) = some t := by
  have h : t.offset.toNat < 4096 := t.offset.isLt
  simp [selectWindow, busAccessOf, inBytes, Config.regWindow, h]

end Sys2Proof.Machine
end

