-- ==== Sys2Proof/Tests/Slice0.lean ====
section
/-! SUPPORT. Tests whose expected values stand in spec/95_test_vectors.md or follow from a numbered rule by
hand, and a witness for the hypotheses of every statement that has some. -/

namespace Sys2Proof.Tests

open Sys2Proof Sys2Proof.Machine

/-! ## Helpers -/

/-- The outcome is a next state with the property. -/
def goesTo (o : Host.Outcome State Fault Refusal) (p : State → Bool) : Bool :=
  match o with
  | .next t => p t
  | .fault _ => false
  | .refused _ => false

/-- The memory that holds these samples from `base` on. -/
def planeFrom (base : Nat) : List Nat → Memory
  | [] => []
  | v :: t =>
    if v = 0 then planeFrom (base + 1) t
    else (base, BitVec.ofNat 8 v) :: planeFrom (base + 1) t

/-- The common setup of 95_test_vectors.md L2.3. -/
def ready : State := { State.reset with
  width := 4#16, height := 4#16, srcBase := 0x1000#32, dstBase := 0x2000#32 }

/-- `ready` with a BOX job of side 3 just accepted. -/
def running : State := { ready with
  busy := true, cmdLast := 0x301#32
  job := { op := .box, k := 3, r := 1, l := 0, w := 4#16, h := 4#16, src := 0x1000#32,
           dst := 0x2000#32 } }

/-- A job of this kind on an h by w plane with the samples at 0x1000, its scan at (i, j). -/
def cellAt (op : FilterKind) (k : Nat) (l : Int) (h w : Nat) (samples : List Nat) (i j : Nat) :
    State := { State.reset with
  busy := true
  job := { op := op, k := k, r := (k - 1) / 2, l := l, w := BitVec.ofNat 16 w,
           h := BitVec.ofNat 16 h, src := 0x1000#32, dst := 0x2000#32 }
  pos := ⟨i, j⟩
  mem := planeFrom 0x1000 samples }

/-- `s` with the output history of the cells computed so far, newest first. -/
def withHistory (s : State) (o : List (Nat × Nat × Nat)) : State :=
  { s with history := o.map fun c => ⟨⟨c.1, c.2.1⟩, BitVec.ofNat 8 c.2.2⟩ }

/-- The value of the cell at pos is `v`. -/
def cellIs (s : State) (v : Nat) : Bool := cellValue s s.pos == .value (BitVec.ofNat 8 v)

/-- The input of vector BOX-1: in(i, j) = 64 * j. -/
def box1 : List Nat := [0, 64, 128, 192, 0, 64, 128, 192, 0, 64, 128, 192, 0, 64, 128, 192]

/-- The input of vector BOX-2: in(i, j) = 16 * (4 * i + j). -/
def box2 : List Nat := [0, 16, 32, 48, 64, 80, 96, 112, 128, 144, 160, 176, 192, 208, 224, 240]

/-- `s` with one pending move. -/
def pending (s : State) (x : Input) : State := { s with inputs := [x] }

/-- The block at REG_BASE = 0x40000000 with one pending transaction. -/
def onBus (s : State) (t : Transaction) : State :=
  let p : Platform := { s.platform with regBase := 0x40000000 }
  { s with platform := p, inputs := [.access (busAccessOf p t)] }

/-! ## Well-formed operations: one ill-formed term for each check -/

theorem test_wf_filter_words_are_not_wrCmd :
    (Instr.wrCmd 0x00000000).wf = false ∧ (Instr.wrCmd 0x00000301).wf = false ∧
      (Instr.wrCmd 0x00000002).wf = false ∧ (Instr.wrCmd 0x00000100).wf = true := by decide

theorem test_wf_reserved_offset_is_a_register : (Instr.rdRsvd 0x020).wf = false ∧
    (Instr.wrRsvd 0x020 0).wf = false ∧ (Instr.rdRsvd 0x024).wf = true ∧
    (Instr.wrRsvd 0xFFC 0).wf = true := by decide

theorem test_wf_reserved_offset_misaligned :
    (Instr.rdRsvd 0x025).wf = false ∧ (Instr.wrRsvd 0xFFE 0).wf = false := by decide

theorem test_wf_illegal_access_is_legal :
    (Instr.illegalAccess true 0x00C 4 0).wf = false ∧
      (Instr.illegalAccess true 0x00C 1 0).wf = true ∧
      (Instr.illegalAccess true 0x00E 4 0).wf = true := by decide

theorem test_wf_illegal_read_with_data :
    (Instr.illegalAccess false 0x00A 4 1).wf = false ∧
      (Instr.illegalAccess false 0x00A 4 0).wf = true := by decide

/-! ## Decoding: words written out from 30_encoding.md R90, R91, R93, R99 and vectors ENC-1 to ENC-13 -/

theorem test_decode_reads :
    decodeTableWord 16 0b0_000000000000 = some .rdId ∧
      decodeTableWord 16 0b0_000000000100 = some .rdCtrl ∧
      decodeTableWord 16 0b0_000000001000 = some .rdStatus ∧
      decodeTableWord 16 0b0_000000001100 = some .rdCmd ∧
      decodeTableWord 16 0b0_000000010000 = some .rdWidth ∧
      decodeTableWord 16 0b0_000000010100 = some .rdHeight ∧
      decodeTableWord 16 0b0_000000011000 = some .rdSrcBase ∧
      decodeTableWord 16 0b0_000000011100 = some .rdDstBase ∧
      decodeTableWord 16 0b0_000000100000 = some .rdLambda ∧
      decodeTableWord 16 0b0_000100000000 = some (.rdRsvd 0x100) := by decide

theorem test_decode_register_writes :
    decodeTableWord 48 0x100000000007 = some (.wrId 7) ∧
      decodeTableWord 48 0x100400000001 = some (.wrCtrl 1) ∧
      decodeTableWord 48 0x100800000006 = some (.wrStatus 6) ∧
      decodeTableWord 48 0x101000000004 = some (.wrWidth 4) ∧
      decodeTableWord 48 0x101400000004 = some (.wrHeight 4) ∧
      decodeTableWord 48 0x101800001000 = some (.wrSrcBase 0x1000) ∧
      decodeTableWord 48 0x101C00002000 = some (.wrDstBase 0x2000) ∧
      decodeTableWord 48 0x102000018000 = some (.wrLambda 0x18000) ∧
      decodeTableWord 48 0x1024FFFFFFFF = some (.wrRsvd 0x024 0xFFFFFFFF) := by decide

/-- The command words bit by bit: RSV1, FSIZE, RSV0, OP (R93). -/
theorem test_decode_commands :
    decodeTableWord 48 0b1_000000001100_0000000000000000_00000000_000000_00 = some .cmdIir ∧
      decodeTableWord 48 0b1_000000001100_0000000000000000_00000011_000000_01 =
        some (.cmdBox 3) ∧
      decodeTableWord 48 0b1_000000001100_0000000000000000_00000100_000000_01 =
        some (.cmdBox 4) ∧
      decodeTableWord 48 0b1_000000001100_0000000000000000_00000000_000000_10 =
        some (.cmdSharpen 0) ∧
      decodeTableWord 48 0b1_000000001100_0000000000000000_00000001_000000_00 =
        some (.wrCmd 0x100) ∧
      decodeTableWord 48 0b1_000000001100_0000000000000000_00000000_000000_11 =
        some (.wrCmd 3) ∧
      decodeTableWord 48 0b1_000000001100_0000000000000001_00000000_000000_01 =
        some (.wrCmd 0x10001) ∧
      decodeTableWord 48 0b1_000000001100_0000000000000000_00000000_000001_01 =
        some (.wrCmd 5) := by decide

theorem test_decode_illegal :
    decodeTableWord 16 0x000A = some (.illegalAccess false 0x00A 4 0) ∧
      decode ⟨true, 0x00C, 1, 1⟩ = .illegalAccess true 0x00C 1 1 ∧
      decode ⟨false, 0x008, 2, 9⟩ = .illegalAccess false 0x008 2 0 := by decide

theorem test_decode_rejects_stray_bits :
    decodeBits 16 0x2000 = .error .strayBits ∧ decodeBits 48 0x200000000000 = .error .strayBits ∧
      decodeBits 48 0x000C00000000 = .error .readWithData := ⟨rfl, rfl, rfl⟩

theorem test_encode_header : headerOf (encode (.wrLambda 0x18000)) = 0x1020#13 ∧
    headerOf (encode .rdStatus) = 0x0008#13 ∧ tableWord (.cmdBox 3) = 0x100C00000301 := by decide

/-- Lambda encodings of 95_test_vectors.md L2.1. -/
theorem test_lambda_words : lambdaWord 1 = some 0x00010000 ∧ lambdaWord (1 / 2) = some 0x00008000 ∧
    lambdaWord (-1) = some 0xFFFF0000 ∧ lambdaWord (-32768) = some 0x80000000 ∧
    lambdaWord 32768 = none ∧ lambdaWord (1 / 3) = none := by
  decide +kernel

/-! ## Register accesses: vectors REG-1 to REG-18 and P1 -/

theorem test_rdId : goesTo (exec .rdId State.reset) (·.answer == .data 0x494D4601) = true := by decide

theorem test_wrId : goesTo (exec (.wrId 0) State.reset)
    (fun t => goesTo (exec .rdId t) (·.answer == .data 0x494D4601)) = true := by decide

theorem test_ctrl : goesTo (exec (.wrCtrl 0xFFFFFFFF) State.reset)
    (fun t => goesTo (exec .rdCtrl t) (·.answer == .data 1)) = true := by decide

theorem test_ctrl_irq :
    goesTo (exec (.wrCtrl 1) { State.reset with done := true }) (fun t => irq t) = true ∧
      goesTo (exec (.wrCtrl 0) { State.reset with done := true, irqEn := true })
        (fun t => !irq t && t.done) = true := by decide

theorem test_rdStatus : goesTo (exec .rdStatus State.reset) (·.answer == .data 0) = true ∧
    goesTo (exec .rdStatus { State.reset with busy := true, err := true, errCode := 1 })
      (·.answer == .data 0x15) = true ∧
    goesTo (exec .rdStatus { State.reset with done := true, err := true, errCode := 8 })
      (·.answer == .data 0x86) = true := by decide

/-- REG-5 and REG-6: from 0x16, a write of 2 leaves 0x14 and then a write of 4 leaves 0. -/
theorem test_wrStatus :
    let s : State := { State.reset with done := true, err := true, errCode := 1 }
    goesTo (exec (.wrStatus 2) s) (fun t => statusWord t == 0x14 &&
      goesTo (exec (.wrStatus 4) t) (fun u => statusWord u == 0)) = true := by decide

/-- REG-7 and REG-17. -/
theorem test_wrStatus_busy_and_irq :
    goesTo (exec (.wrStatus 7) running) (fun t => statusWord t == 1) = true ∧
      goesTo (exec (.wrStatus 6) { State.reset with done := true, irqEn := true })
        (fun t => statusWord t == 0 && !irq t) = true := by decide

theorem test_rdCmd : goesTo (exec .rdCmd State.reset) (·.answer == .data 0) = true ∧
    goesTo (exec (.cmdBox 0) ready) (fun t => goesTo (exec (.wrCmd 3) t)
      (fun u => goesTo (exec .rdCmd u) (·.answer == .data 1))) = true := by decide

theorem test_width : goesTo (exec (.wrWidth 0x00120004) State.reset)
    (fun t => goesTo (exec .rdWidth t) (·.answer == .data 4)) = true := by decide

/-- REG-18. -/
theorem test_width_while_busy : goesTo (exec (.wrWidth 8) running)
    (fun t => t.job.w == 4 && goesTo (exec .rdWidth t) (·.answer == .data 8)) = true := by decide

theorem test_height : goesTo (exec (.wrHeight 0x10000) { State.reset with height := 9 })
    (fun t => goesTo (exec .rdHeight t) (·.answer == .data 0)) = true := by decide

theorem test_srcBase : goesTo (exec (.wrSrcBase 0xFFFFFFFF) State.reset)
    (fun t => t.dstBase == 0 && goesTo (exec .rdSrcBase t) (·.answer == .data 0xFFFFFFFF)) = true := by
  decide

theorem test_dstBase : goesTo (exec (.wrDstBase 0x2000) State.reset)
    (fun t => t.srcBase == 0 && goesTo (exec .rdDstBase t) (·.answer == .data 0x2000)) = true := by
  decide

theorem test_lambda : goesTo (exec (.wrLambda 0x80000000) State.reset)
    (fun t => goesTo (exec .rdLambda t) (·.answer == .data 0x80000000)) = true := by decide

theorem test_rsvd : goesTo (exec (.wrRsvd 0x024 0xFFFFFFFF) ready)
    (fun t => t == { ready with answer := .done } &&
      goesTo (exec (.rdRsvd 0x024) t) (·.answer == .data 0)) = true := by decide

/-- ENC-13: a 1-byte write at CMD starts no job. -/
theorem test_illegalAccess : goesTo (step (onBus ready ⟨true, 0x00C, 1, 0⟩))
    (fun t => t.answer == .busError && !t.busy && statusWord t == 0) = true := by decide

/-! ## Commands: vectors CMD-1 to CMD-25 -/

/-- The STATUS word after the word is written to CMD. -/
def afterCmd (v : Word) (s : State) (status : Word) : Bool :=
  goesTo (exec (decodeCmd v) s) fun t => statusWord t == status

theorem test_wrCmd_codes : afterCmd 0x5 ready 0x24 = true ∧ afterCmd 0x10001 ready 0x24 = true ∧
    afterCmd 0x3 ready 0x34 = true ∧ afterCmd 0x107 ready 0x24 = true ∧
    afterCmd 0x107 running 0x15 = true ∧ afterCmd 0x100 ready 0x44 = true ∧
    afterCmd 0x103 ready 0x34 = true := by decide

/-- CMD-25: the rejection leaves DONE and irq set. -/
theorem test_wrCmd_keeps_done :
    let s : State := { ready with done := true, irqEn := true }
    goesTo (exec (.wrCmd 5) s) (fun t => statusWord t == 0x26 && irq t) = true := by decide

theorem test_cmdIir_checks :
    afterCmd 0 { ready with height := 0 } 0x54 = true ∧
      afterCmd 0 { ready with dstBase := 0xFFFFFFFF } 0x64 = true ∧
      afterCmd 0 { ready with dstBase := 0x1000 } 0x01 = true ∧
      afterCmd 0 { ready with dstBase := 0x1001 } 0x74 = true := by decide

theorem test_cmdBox_checks :
    afterCmd 0x301 running 0x15 = true ∧ afterCmd 0x401 ready 0x44 = true ∧
      afterCmd 0x401 { ready with width := 0 } 0x44 = true ∧
      afterCmd 0x301 { ready with width := 0 } 0x54 = true ∧
      afterCmd 0x301 { ready with srcBase := 0xFFFFFFF0 } 0x01 = true ∧
      afterCmd 0x301 { ready with srcBase := 0xFFFFFFF1 } 0x64 = true ∧
      afterCmd 0x301 { ready with dstBase := 0x1008 } 0x74 = true ∧
      afterCmd 0x301 { ready with dstBase := 0x1000 } 0x74 = true ∧
      afterCmd 0x301 { ready with dstBase := 0x1010 } 0x01 = true ∧
      afterCmd 0x301 { ready with dstBase := 0x0FF0 } 0x01 = true := by decide

/-- CMD-22 and CMD-24. -/
theorem test_cmdBox_accepts : goesTo (exec (.cmdBox 0)
    { ready with done := true, err := true, errCode := 4 })
    (fun t => statusWord t == 1 && t.job.k == 9 && t.job.r == 4 && t.cmdLast == 1 &&
      t.pos == ⟨0, 0⟩) = true := by decide

/-- CMD-17, CMD-23, and lambda = -1 latched. -/
theorem test_cmdSharpen : afterCmd 0x2 { ready with dstBase := 0x1000 } 0x74 = true ∧
    goesTo (exec (.cmdSharpen 255) { ready with lambda := 0xFFFF0000 })
      (fun t => statusWord t == 1 && t.job.k == 255 && t.job.r == 127 && t.job.l == -65536) = true ∧
    goesTo (exec (.cmdSharpen 0) ready) (fun t => t.job.k == 5 && t.cmdLast == 2) = true := by decide

/-! ## Cells: vectors of 95_test_vectors.md L2.4 to L2.6 -/

/-- BOX-1 at a corner, an edge and the interior, and BOX-4 at a corner. -/
theorem test_box_cells : cellIs (cellAt .box 3 0 4 4 box1 0 0) 14 = true ∧
    cellIs (cellAt .box 3 0 4 4 box1 0 1) 42 = true ∧
    cellIs (cellAt .box 3 0 4 4 box1 1 2) 128 = true ∧
    cellIs (cellAt .box 3 0 5 5 (List.replicate 25 100) 0 0) 44 = true := by decide

/-- BOX-3 and BOX-6: K above the plane's size. -/
theorem test_box_large_kernel : cellIs (cellAt .box 9 0 3 3 (List.replicate 9 200) 1 1) 22 = true ∧
    cellIs (cellAt .box 9 0 1 1 [255] 0 0) 3 = true := by decide

/-- SH-2 at the centre, SH-3 at a corner and an edge, SH-5's two clips, SH-11 at (1, 1). -/
theorem test_sharpen_cells :
    cellIs (cellAt .sharpen 3 65536 3 3 [0, 0, 0, 0, 100, 0, 0, 0, 0] 1 1) 188 = true ∧
      cellIs (cellAt .sharpen 3 65536 3 3 (List.replicate 9 90) 0 0) 140 = true ∧
      cellIs (cellAt .sharpen 3 65536 3 3 (List.replicate 9 90) 0 1) 120 = true ∧
      cellIs (cellAt .sharpen 3 131072 1 3 [0, 255, 0] 0 0) 0 = true ∧
      cellIs (cellAt .sharpen 3 131072 1 3 [0, 255, 0] 0 1) 255 = true ∧
      cellIs (cellAt .sharpen 5 98304 4 4 box2 1 1) 84 = true := by decide

/-- SH-12, SH-8 at (0, 1) and SH-4 at (1, 2). -/
theorem test_sharpen_negative_lambda :
    cellIs (cellAt .sharpen 3 (-2147483648) 1 3 [0, 255, 0] 0 0) 255 = true ∧
      cellIs (cellAt .sharpen 3 (-131072) 4 4 box2 0 1) 48 = true ∧
      cellIs (cellAt .sharpen 3 (-65536) 4 4 box2 1 2) 96 = true := by decide

/-- IIR-2: the top-left, top-row, left-column and interior cases of the impulse. -/
theorem test_iir_cells :
    let s := cellAt .iir 0 0 3 3 [255, 0, 0, 0, 0, 0, 0, 0, 0]
    cellIs (s 0 0) 2 = true ∧ cellIs (withHistory (s 0 1) [(0, 0, 2)]) 1 = true ∧
      cellIs (withHistory (s 1 0) [(0, 2, 0), (0, 1, 1), (0, 0, 2)]) 1 = true ∧
      cellIs (withHistory (s 1 1) [(1, 0, 1), (0, 2, 0), (0, 1, 1), (0, 0, 2)]) 0 = true := by decide

/-- IIR-3 at (1, 2), where N = -81, and IIR-4 at (1, 1), where N = 813. -/
theorem test_iir_interior :
    cellIs (withHistory (cellAt .iir 0 0 2 3 [255, 0, 0, 0, 0, 0] 1 2)
        [(1, 1, 0), (1, 0, 1), (0, 2, 0), (0, 1, 1), (0, 0, 2)]) 0 = true ∧
      cellIs (withHistory (cellAt .iir 0 0 4 4 (List.replicate 16 255) 1 1)
        [(1, 0, 4), (0, 3, 7), (0, 2, 6), (0, 1, 4), (0, 0, 2)]) 8 = true := by decide

/-! ## The engine, the host's other moves, reset -/

/-- P4: the one cell of a 1 by 1 job completes it. -/
theorem test_cell_step_completes :
    goesTo (step (cellAt .iir 0 0 1 1 [200] 0 0)) (fun t =>
      t.mem.get 0x2000 == 2 && statusWord t == 2 && t.pos == ⟨1, 0⟩ && t.history == []) = true := by
  decide

theorem test_cell_step_advances :
    goesTo (step (cellAt .box 3 0 4 4 box1 0 3)) (fun t =>
      t.mem.get 0x2003 == 71 && statusWord t == 1 && t.pos == ⟨1, 0⟩) = true := by decide

/-- CMD-27 and CMD-28: a read hole at 0x1005 and a write hole at 0x2003. -/
theorem test_bus_errors :
    let rd : State := { cellAt .box 3 0 4 4 box1 0 0 with platform := ⟨0, [⟨.read, 0x1005, 1⟩]⟩ }
    let wr : State := { cellAt .box 3 0 4 4 box1 0 3 with platform := ⟨0, [⟨.write, 0x2003, 1⟩]⟩ }
    goesTo (step rd) (fun t => statusWord t == 0x86 && t.history == []) = true ∧
      goesTo (step wr) (fun t => statusWord t == 0x86 && t.freeCount == 1) = true := by decide

/-- An excluded neighbour causes no access (20_memory.md R68): a read hole outside the plane does not
matter. -/
theorem test_no_access_outside_the_plane :
    goesTo (step { cellAt .box 3 0 4 4 box1 0 0 with
        platform := ⟨0, [⟨.read, 0x0FF0, 16⟩, ⟨.read, 0x1010, 16⟩]⟩ })
      (fun t => statusWord t == 1 && t.mem.get 0x2000 == 14) = true := by decide

theorem test_host_memory_moves :
    goesTo (step (pending ready (.memWrite 0x10 200))) (fun t =>
      t.mem == [(0x10, 200#8)] &&
        goesTo (step (pending t (.memRead 0x10))) (·.answer == .byte 200)) = true := by decide

theorem test_reset : goesTo (step (pending { ready with irqEn := true, err := true, errCode := 7 }
    .reset)) (fun t => t == State.reset) = true := by decide

theorem test_command_from_reset :
    goesTo (step (State.reset.withFetchWord 48 0x100C00000000)) (fun t => statusWord t == 0x54) = true := by
  decide

theorem test_command_on_the_bus :
    goesTo (step (onBus ready (writeAt 0x00C 0x301))) (fun t => statusWord t == 1 && t.inputs == []) =
      true := by decide

/-! ## Witnesses: hypotheses of the statements, met together -/

/-- The BOX-1 job of side 3 at its first cell, with every access admitted. -/
def boxJob : State := cellAt .box 3 0 4 4 box1 0 0

/-- A 1 by 1 IIR job on the sample 200 at its only cell (P4). -/
def dotJob : State := cellAt .iir 0 0 1 1 [200] 0 0

/-- The same job on a plane at another place, with another schedule pending. -/
def dotJob' : State := { dotJob with
  job := { dotJob.job with src := 0x10#32, dst := 0x10#32 }
  mem := [(0x10, 200#8)]
  inputs := [.engine] }

theorem witness_DecodeOfEncodeIsTheInstruction :
    (Instr.cmdBox 255).wf = true ∧ (Instr.wrCmd 0x103).wf = true ∧ (Instr.rdRsvd 0xFFC).wf = true ∧
      (Instr.illegalAccess true 0xFFF 8 7).wf = true := by decide

theorem witness_EncodeOfDecodeIsTheTransaction :
    let t : Transaction := ⟨false, 0x00A, 1, 0⟩
    t.write = false ∧ t.wdata = 0 := by decide

theorem witness_DecoderFollowsOpcodeTable :
    (writeAt 0xFFC 1).size = 4 ∧ (writeAt 0xFFC 1).offset.toNat % 4 = 0 := by decide

theorem witness_TableWordDecodes :
    (Instr.illegalAccess true 0x00E 4 7).wf = true ∧
      (encode (.illegalAccess true 0x00E 4 7)).size = 4 ∧ (Instr.cmdSharpen 5).wf = true ∧
      (encode (.cmdSharpen 5)).size = 4 := by decide

theorem witness_PseudoInstructionsExpand : (255 : Nat) < 256 ∧
    (∀ v : Word, (1 / 3 : ℚ) * 65536 ≠ v.toInt) ∧ ∀ v : Word, (32768 : ℚ) * 65536 ≠ v.toInt := by
  refine ⟨by decide, fun v h => ?_, fun v h => ?_⟩
  · have h' : (65536 : ℚ) = ((3 * v.toInt : Int) : ℚ) := by push_cast; linarith
    have : (65536 : Int) = 3 * v.toInt := by exact_mod_cast h'
    omega
  · have h' : ((2147483648 : Int) : ℚ) = ((v.toInt : Int) : ℚ) := by push_cast; linarith
    have : (2147483648 : Int) = v.toInt := by exact_mod_cast h'
    have := @BitVec.toInt_lt 32 v
    omega

theorem witness_StepRunsTheDecodedInstruction :
    let t := writeAt 0x00C 0x301
    let s := onBus ready t
    s.inputs = [.access (busAccessOf s.platform t)] ∧
      selectWindow s.platform (busAccessOf s.platform t) = some t ∧
      t = encode (.cmdBox 3) ∧ (Instr.cmdBox 3).wf = true := by decide

theorem witness_PlacedWordRunsNext : decodeTableWord 16 0x0024 = some (.rdRsvd 0x024) ∧
    decodeTableWord 48 0x100C0000FF02 = some (.cmdSharpen 255) := by decide

/-- The window's first and last byte are the block's, and their neighbours are not. -/
theorem witness_WindowSelectsByOffset :
    let p : Platform := ⟨0x1000, []⟩
    selectWindow p ⟨0x1000, false, 4, 0⟩ = some ⟨false, 0x000, 4, 0⟩ ∧
      selectWindow p ⟨0x1FFF, true, 4, 7⟩ = some ⟨true, 0xFFF, 4, 7⟩ ∧
      ((0x0FFF < p.regBase ∨ p.regBase + 4096 ≤ 0x0FFF) ∧
        selectWindow p ⟨0x0FFF, false, 4, 0⟩ = none) ∧
      (0x2000 < p.regBase ∨ p.regBase + 4096 ≤ 0x2000) ∧
        selectWindow p ⟨0x2000, false, 4, 0⟩ = none := by decide

/-- Lane 0 and lane 3 of LAMBDA, and the bytes beside them. -/
theorem witness_RegisterLanesAreLittleEndian :
    let p : Platform := ⟨0x1000, []⟩
    laneAt p 0x020 0x11223344 0x1020 = some 0x44 ∧ laneAt p 0x020 0x11223344 0x1023 = some 0x11 ∧
      laneAt p 0x020 0x11223344 0x101F = none ∧ laneAt p 0x020 0x11223344 0x1024 = none := by decide

theorem witness_EngineTurnIsAStep : boxJob.inputs = [] ∧ boxJob.busy = true ∧
    ready.inputs = [] ∧ ready.busy = false ∧ (pending boxJob .engine).inputs = [.engine] := by decide

theorem witness_WaitsEndOnIdleAndOnIrq :
    (pending boxJob .waitIdle).inputs = [.waitIdle] ∧ (pending ready .waitIdle).busy = false ∧
      irq (pending { ready with irqEn := true, done := true } .waitIrq) = true ∧
      (irq (pending ready .waitIrq) = false ∧ (pending ready .waitIrq).busy = false) ∧
      irq (pending boxJob .waitIrq) = false ∧ (pending boxJob .waitIrq).busy = true := by decide

theorem witness_reserved_offsets : offsetReserved 0x024 = true ∧ offsetReserved 0xFFC = true := by
  decide

theorem witness_ReadsHaveNoSideEffect : Instr.isWrite .rdCmd = false ∧
    (Instr.illegalAccess false 0x001 4 0).isWrite = false ∧
    (∃ t, exec .rdCmd running = .next t) ∧
      ∃ t, exec (.illegalAccess false 0x001 4 0) running = .next t := by
  exact ⟨rfl, rfl, ⟨_, rfl⟩, ⟨_, rfl⟩⟩

/-- A running job before and after a command was rejected during it. -/
theorem witness_StatusReadHasItsBits :
    let s : State := { boxJob with err := true, errCode := 1 }
    (Legal boxJob ∧ boxJob.busy = true ∧ statusWord boxJob = 0x01) ∧
      Legal s ∧ s.busy = true ∧ statusWord s = 0x15 := by
  exact ⟨⟨by decide, rfl, rfl⟩, by decide, rfl, rfl⟩

theorem witness_StatusWriteClearsOnes : (6#32).getLsbD 1 = true ∧ (6#32).getLsbD 2 = true ∧
    (1#32).getLsbD 1 = false ∧ (1#32).getLsbD 2 = false := by decide

theorem witness_WrittenRegistersReadBack :
    (∃ t, exec (.wrCtrl 3) ready = .next t) ∧ (∃ t, exec (.wrWidth 0x120004) running = .next t) ∧
      (∃ t, exec (.wrHeight 0x10000) ready = .next t) ∧
      (∃ t, exec (.wrSrcBase 1) ready = .next t) ∧ (∃ t, exec (.wrDstBase 1) ready = .next t) ∧
      ∃ t, exec (.wrLambda 1) ready = .next t :=
  ⟨⟨_, rfl⟩, ⟨_, rfl⟩, ⟨_, rfl⟩, ⟨_, rfl⟩, ⟨_, rfl⟩, ⟨_, rfl⟩⟩

theorem witness_IllegalAccessAnswersBusError :
    let t : Transaction := ⟨true, 0x00C, 2, 0x301⟩
    (Instr.illegalAccess true 0x00C 2 0x301).wf = true ∧ (t.size ≠ 4 ∨ t.offset.toNat % 4 ≠ 0) ∧
      (onBus ready t).inputs = [.access (busAccessOf (onBus ready t).platform t)] := by decide

/-- The tests of a command of which none, or the first that holds, decides in CommandChecksInOrder. -/
def commandTests (s : State) (v : Word) : List Bool :=
  let op := v.toNat % 4
  let fsize := v.toNat / 256 % 256
  let n := s.width.toNat * s.height.toNat
  let S := s.srcBase.toNat
  let D := s.dstBase.toNat
  [s.busy, v.toNat / 4 % 64 ≠ 0 ∨ v.toNat / 65536 ≠ 0, op = 3,
    if op = 0 then fsize ≠ 0 else fsize ≠ 0 ∧ fsize % 2 = 0,
    s.width.toNat = 0 ∨ s.height.toNat = 0, S + n > 2 ^ 32 ∨ D + n > 2 ^ 32,
    ¬(S + n ≤ D ∨ D + n ≤ S ∨ op = 0 ∧ S = D)]

/-- Each clause has an input that fails its check and no earlier one, at the edge of its range: CMD-6,
CMD-2, CMD-3, 0x00000103, CMD-7, CMD-9, CMD-10, CMD-11, CMD-13, CMD-14, CMD-15, CMD-19. The inputs of
CMD-12, CMD-18, CMD-20 and CMD-21, one step over the edge, fail none. -/
theorem witness_CommandChecksInOrder :
    let first (s : State) (v : Word) : Nat := (commandTests s v).findIdx id + 1
    first running 0x107 = 1 ∧ first ready 0x5 = 2 ∧ first ready 0x10001 = 2 ∧
      first ready 0x103 = 3 ∧ first ready 0x100 = 4 ∧
      first { ready with width := 0 } 0x401 = 4 ∧ first { ready with width := 0 } 0x301 = 5 ∧
      first { ready with height := 0 } 0 = 5 ∧
      first { ready with srcBase := 0xFFFFFFF1 } 0x301 = 6 ∧
      first { ready with dstBase := 0xFFFFFFFF } 0 = 6 ∧
      first { ready with dstBase := 0x1008 } 0x301 = 7 ∧
      first { ready with dstBase := 0x1001 } 0 = 7 ∧
      first { ready with srcBase := 0xFFFFFFF0 } 0x301 = 8 ∧
      first { ready with dstBase := 0x1000 } 0 = 8 ∧
      first { ready with dstBase := 0x1010 } 0x301 = 8 ∧
      first { ready with dstBase := 0x0FF0 } 0x301 = 8 := by decide

/-- CMD-18 (in place), CMD-20 (adjacent) and CMD-12 (the last address). -/
theorem witness_IirCommandStartsAJob :
    let a : State := { ready with dstBase := 0x1000 }
    let b : State := { ready with dstBase := 0x1010 }
    let c : State := { ready with srcBase := 0xFFFFFFF0 }
    (a.busy = false ∧ a.width.toNat ≠ 0 ∧ a.height.toNat ≠ 0 ∧ a.srcBase.toNat + 16 ≤ 2 ^ 32 ∧
      a.srcBase = a.dstBase) ∧
    (b.srcBase.toNat + 16 ≤ b.dstBase.toNat ∧ b.dstBase.toNat + 16 ≤ 2 ^ 32) ∧
    (c.srcBase.toNat + 16 ≤ 2 ^ 32 ∧ c.dstBase.toNat + 16 ≤ c.srcBase.toNat) := by decide

/-- CMD-20, CMD-21 and CMD-23. -/
theorem witness_BoxAndSharpenCommandsStartAJob :
    let a : State := { ready with dstBase := 0x1010 }
    let b : State := { ready with dstBase := 0x0FF0 }
    (a.busy = false ∧ a.width.toNat * a.height.toNat = 16 ∧ a.width.toNat ≠ 0 ∧
      a.height.toNat ≠ 0 ∧ a.srcBase.toNat + 16 ≤ a.dstBase.toNat ∧
      a.dstBase.toNat + 16 ≤ 2 ^ 32) ∧
    b.dstBase.toNat + 16 ≤ b.srcBase.toNat ∧
    ((0#8).toNat = 0 ∧ (1#8).toNat % 2 = 1 ∧ (255#8).toNat % 2 = 1) := by decide

theorem witness_OtherCommandWordsAreRejected : (Instr.wrCmd 0x5).wf = true ∧
    (Instr.wrCmd 0x3).wf = true ∧ (Instr.wrCmd 0x100).wf = true ∧
    (Instr.wrCmd 0x10000).wf = true := by decide

theorem witness_OnlyCommandsStartJobs :
    (∃ t, exec (.cmdBox 3) ready = .next t ∧ ready.busy = false ∧ t.busy = true) ∧
      ∃ t, exec (.wrWidth 8) running = .next t ∧ running.busy = true := by
  exact ⟨⟨_, rfl, rfl, rfl⟩, ⟨_, rfl, rfl⟩⟩

/-- DONE and ERR cleared by an acknowledge, by an accepted command and by reset. -/
theorem witness_DoneAndErrClearedOnlyByHost :
    let s : State := { ready with done := true, err := true, errCode := 4 }
    (∃ t, step (onBus s (writeAt 0x008 6)) = .next t ∧ s.done = true ∧ t.done = false ∧
      s.err = true ∧ t.err = false) ∧
    (∃ t, step (onBus s (writeAt 0x00C 0x301)) = .next t ∧ t.done = false ∧ t.err = false) ∧
    ∃ t, step (pending s .reset) = .next t ∧ t.done = false ∧ t.err = false := by
  exact ⟨⟨_, rfl, rfl, rfl, rfl, rfl⟩, ⟨_, rfl, rfl, rfl⟩, ⟨_, rfl, rfl, rfl⟩⟩

theorem witness_IrqFollowsTheJob :
    (∃ t, exec (.cmdBox 3) ready = .next t ∧ ready.busy = false ∧ t.busy = true) ∧
    (∃ t, engineTurn { dotJob with irqEn := true } = .next t ∧ t.busy = false ∧ t.irqEn = true) ∧
    (∃ t, exec (decodeCmd 5) { ready with irqEn := true } = .next t ∧ t.busy = false) ∧
    ∃ t, exec (.wrStatus 6) { ready with irqEn := true, done := true } = .next t := by
  exact ⟨⟨_, rfl, rfl, rfl⟩, ⟨_, rfl, rfl, rfl⟩, ⟨_, rfl, rfl⟩, ⟨_, rfl⟩⟩

/-- The last cell and a cell that is not the last. -/
theorem witness_CellStepWritesOneSample :
    (Legal boxJob ∧ boxJob.busy = true ∧ ¬CellBusError boxJob) ∧
      Legal dotJob ∧ dotJob.busy = true ∧ ¬CellBusError dotJob := by
  refine ⟨⟨by decide, by decide, ?_⟩, by decide, by decide, ?_⟩ <;>
    simp [CellBusError, memAdmit, boxJob, dotJob, cellAt, State.reset]

/-- CMD-27: the read hole at 0x1005; CMD-28: a write hole at the cell's own byte. -/
theorem witness_BusErrorAbortsTheJob :
    let rd : State := { boxJob with platform := ⟨0, [⟨.read, 0x1005, 1⟩]⟩ }
    let wr : State := { boxJob with platform := ⟨0, [⟨.write, 0x2000, 1⟩]⟩ }
    (Legal rd ∧ rd.busy = true ∧ CellBusError rd) ∧ Legal wr ∧ wr.busy = true ∧ CellBusError wr := by
  refine ⟨⟨by decide, by decide, .inl ⟨1, 1, ?_⟩⟩, by decide, by decide, .inr ?_⟩ <;> decide

theorem witness_CellValueIsTheSourceFilter :
    Legal boxJob ∧ boxJob.busy = true ∧ ¬CellBusError boxJob := witness_CellStepWritesOneSample.1

theorem witness_ClipUnitIsTheSourceQuantizer : (0 : Int) < 100 ∧ (0 : Int) < 1 := by decide

theorem witness_AccumulatorIsTheWindowSum : accumulate boxJob ⟨0, 0⟩ = .value 128 ∧
    boxJob.job.op ≠ .iir ∧ KernelOk boxJob.job ∧ 0 < boxJob.job.h.toNat ∧
    0 < boxJob.job.w.toNat := by decide

theorem witness_ClipNeverChangesABoxResult : boxJob.job.op ≠ .iir ∧ KernelOk boxJob.job ∧
    accumulate boxJob ⟨1, 1⟩ = .value 576 := by decide

/-- One job for each corner: lambda = 0, K = 1 with lambda = 5, K = 1 for BOX, lambda = -1. -/
theorem witness_SharpenCorners :
    let a := cellAt .sharpen 5 0 4 4 box2 1 1
    let b := cellAt .sharpen 1 327680 4 4 box2 1 1
    let c := cellAt .sharpen 3 (-65536) 4 4 box2 1 1
    (KernelOk a.job ∧ a.job.op ≠ .iir ∧ 1 < a.job.h.toNat ∧ 1 < a.job.w.toNat ∧ a.job.l = 0 ∧
      cellSharpen a ⟨1, 1⟩ = .value 80) ∧
    (KernelOk b.job ∧ b.job.k = 1 ∧ cellSharpen b ⟨1, 1⟩ = .value 80 ∧
      cellBox b ⟨1, 1⟩ = .value 80) ∧
    KernelOk c.job ∧ c.job.l = -65536 ∧ cellSharpen c ⟨1, 1⟩ = .value 80 := by decide

theorem witness_UniformInteriorIsFixed :
    let s := cellAt .sharpen 3 65536 3 3 (List.replicate 9 90) 1 1
    KernelOk s.job ∧ s.job.op ≠ .iir ∧
      (∀ p, p < s.job.h.toNat → ∀ q, q < s.job.w.toNat → s.mem.get (s.job.inAddr p q) = 90) ∧
      s.job.r ≤ 1 ∧ 1 + s.job.r < s.job.h.toNat ∧ 1 + s.job.r < s.job.w.toNat ∧
      cellBox s ⟨1, 1⟩ = .value 90 ∧ cellSharpen s ⟨1, 1⟩ = .value 90 := by decide

theorem witness_DatapathWidthsSuffice : JobOk boxJob.job ∧ boxJob.job.op ≠ .iir ∧
    0 < boxJob.job.h.toNat ∧ 1 < boxJob.job.w.toNat ∧
    accumulate boxJob ⟨0, 1⟩ = .value 384 ∧ 64#8 = boxJob.mem.get (boxJob.job.inAddr 0 1) := by decide

theorem witness_CellReadsOnlyTheInputPlane :
    let m := boxJob.mem.set 0x1010 255
    0 < boxJob.job.h.toNat ∧ 0 < boxJob.job.w.toNat ∧
      (∀ a, a < 16 → m.get (0x1000 + a) = boxJob.mem.get (0x1000 + a)) ∧ m ≠ boxJob.mem := by decide

theorem witness_JobTakesOneStepPerCell : Legal boxJob ∧ boxJob.busy = true ∧
    boxJob.pos = ⟨0, 0⟩ ∧ boxJob.inputs = [] ∧ PlanesAdmitted boxJob := by
  refine ⟨by decide, by decide, by decide, by decide, ?_⟩
  simp [PlanesAdmitted, memAdmit, boxJob, cellAt, State.reset]

/-- The state after the only cell of `s`. -/
def dotDone (s : State) (m : Memory) : State :=
  { s with busy := false, done := true, pos := ⟨1, 0⟩, history := [], mem := m, inputs := [] }

theorem witness_CompletedJobHoldsItsFilter : ∃ t, Legal dotJob ∧ dotJob.busy = true ∧
    dotJob.pos = ⟨0, 0⟩ ∧ RunsBusy dotJob dotJob ∧ StepsTo dotJob t ∧ t.busy = false ∧
    t.done = true ∧ t.errCode ≠ 8#4 :=
  ⟨dotDone dotJob [(0x1000, 200#8), (0x2000, 2#8)], by decide, rfl, rfl, .refl, rfl, rfl, rfl,
    by decide⟩

/-- Two jobs of one kind, size, lambda and input at different places, one of them in place. -/
theorem witness_OutputDependsOnlyOnJobAndInput : ∃ t t', Legal dotJob ∧ StepsTo dotJob t ∧
    t.busy = false ∧ t.done = true ∧ Legal dotJob' ∧ dotJob'.busy = true ∧ dotJob'.pos = ⟨0, 0⟩ ∧
    RunsBusy dotJob' dotJob' ∧ StepsTo dotJob' t' ∧ t'.busy = false ∧ t'.done = true ∧
    t'.errCode ≠ 8#4 ∧
    dotJob'.job = { dotJob.job with src := dotJob'.job.src, dst := dotJob'.job.dst } ∧
    planeAt dotJob'.mem dotJob'.job.src.toNat 1 0 0 = planeAt dotJob.mem dotJob.job.src.toNat 1 0 0 :=
  ⟨dotDone dotJob [(0x1000, 200#8), (0x2000, 2#8)], dotDone dotJob' [(0x10, 2#8)], by decide, rfl,
    rfl, rfl, by decide, rfl, rfl, .refl, rfl, rfl, rfl, by decide, rfl, rfl⟩

theorem witness_EveryJobEnds : Legal boxJob ∧ boxJob.busy = true := by decide

theorem witness_HostCannotDisturbAJob : ∃ t,
    (onBus boxJob (writeAt 0x00C 0)).inputs ≠ [] ∧ boxJob.busy = true ∧
      step (onBus boxJob (writeAt 0x00C 0)) = .next t ∧ statusWord t = 0x15 :=
  ⟨_, by decide, rfl, rfl, by decide⟩

theorem witness_OnlyTheOutputPlaneIsWritten : ∃ t, Legal boxJob ∧ step boxJob = .next t ∧
    (∀ a v rest, boxJob.inputs ≠ .memWrite a v :: rest) ∧ t.mem ≠ boxJob.mem := by
  refine ⟨_, by decide, rfl, fun a v rest h => ?_, by decide⟩
  cases h

theorem witness_StepKeepsLegal : ∃ t, Legal boxJob ∧ step boxJob = .next t := ⟨_, by decide, rfl⟩

/-- The first cell of the BOX-1 job, against the memory it starts from. -/
theorem witness_StepKeepsTheOutputFaithful : ∃ t, boxJob.pos = ⟨0, 0⟩ ∧ Legal boxJob ∧
    boxJob.busy = true ∧ Faithful boxJob.mem boxJob ∧ step boxJob = .next t ∧ t.busy = true := by
  refine ⟨_, rfl, by decide, rfl, ⟨fun p q _ h => ?_, fun _ _ _ => rfl⟩, rfl, rfl⟩
  simp [rank, boxJob, cellAt] at h

theorem witness_LegalStatesNeverFault : Legal (pending boxJob .waitIrq) := by decide

/-- A write of the first input byte, and of the last output byte, of the running job. -/
theorem witness_OnlyInterferenceIsRefused :
    step (pending boxJob (.memWrite 0x1000 1)) = .refused .hostInterference ∧
      boxJob.job.inInput 0x1000 = true ∧
      step (pending boxJob (.memWrite 0x200F 1)) = .refused .hostInterference ∧
      boxJob.job.inOutput 0x200F = true := ⟨rfl, rfl, rfl, rfl⟩

theorem witness_CanonicalMemoriesAreEqual :
    Memory.wf (Memory.set [(7, 3#8)] 5 1) = true ∧ Memory.wf (Memory.set [(5, 1#8)] 7 3) = true ∧
      ∀ a, Memory.get (Memory.set [(7, 3#8)] 5 1) a = Memory.get (Memory.set [(5, 1#8)] 7 3) a := by
  refine ⟨by decide, by decide, fun a => ?_⟩
  simp [Memory.set, Memory.insert, unwrittenByte]

theorem witness_ResetClearsTheBlock : (pending boxJob .reset).inputs = [.reset] ∧
    boxJob.busy = true ∧ boxJob.job.inOutput 0x2000 = true ∧ 0x2000 < 2 ^ 32 ∧
    (pending ready .reset).busy = false ∧ boxJob.job.inOutput 0x1000 = false := by decide

theorem witness_CommandRightAfterResetIsBadDim :
    (∃ t, (pending ready .reset).inputs = [.reset] ∧ step (pending ready .reset) = .next t) ∧
      (0#8).toNat = 0 ∧ (255#8).toNat % 2 = 1 := ⟨⟨_, rfl, rfl⟩, rfl, rfl⟩

/-- A write beside a running job's planes, a read beside its output plane, a read in it. -/
theorem witness_HostDataAccesses :
    ((pending boxJob (.memWrite 0x1010 1)).inputs = [.memWrite 0x1010 1] ∧
      boxJob.job.inInput 0x1010 = false ∧ boxJob.job.inOutput 0x1010 = false) ∧
    (pending boxJob (.memRead 0x200F)).inputs = [.memRead 0x200F] ∧
    ¬(boxJob.busy = true ∧ boxJob.job.inOutput 0x2010 = true) ∧
    boxJob.busy = true ∧ boxJob.job.inOutput 0x200F = true := by decide

theorem witness_PlatformNeverChanges : ∃ t, step boxJob = .next t := ⟨_, rfl⟩

end Sys2Proof.Tests
end

section
/-! SUPPORT. Everything an operation and a step can do to the block, once. -/

namespace Sys2Proof.Machine

/-- `t` differs from `s` at most in what no invariant of the engine reads: the configuration registers,
the answer, the pending moves and the counter of free values. -/
def HostSideOnly (s t : State) : Prop :=
  t = { s with
    irqEn := t.irqEn, width := t.width, height := t.height, srcBase := t.srcBase
    dstBase := t.dstBase, lambda := t.lambda, answer := t.answer, inputs := t.inputs
    freeCount := t.freeCount }

theorem HostSideOnly.done_eq {s t : State} (h : HostSideOnly s t) : t.done = s.done := by
  rw [h]

theorem HostSideOnly.err_eq {s t : State} (h : HostSideOnly s t) : t.err = s.err := by
  rw [h]

/-- What an operation can do: it stays on the host's side, or clears STATUS bits, or runs Command(v). -/
theorem exec_cases {i : Instr} {s t : State} (h : exec i s = .next t) :
    HostSideOnly s t ∨
      (∃ v, i = .wrStatus v ∧ t = { clearStatus v s with answer := .done }) ∨
      ∃ v, t = { command v s with answer := .done } := by
  cases i
  case wrStatus v => cases h; exact .inr (.inl ⟨v, rfl, rfl⟩)
  case cmdIir => cases h; exact .inr (.inr ⟨_, rfl⟩)
  case cmdBox f => cases h; exact .inr (.inr ⟨_, rfl⟩)
  case cmdSharpen f => cases h; exact .inr (.inr ⟨_, rfl⟩)
  case wrCmd v => cases h; exact .inr (.inr ⟨_, rfl⟩)
  all_goals cases h; exact .inl rfl

/-- The ways a step goes on: a move that stays on the host's side (an access elsewhere, a data memory
read, a wait, an idle turn of the engine), an operation, another agent's write beside the running job's
planes, a cell step, or reset. -/
inductive StepGoesOn (s t : State) : Prop where
  | hostSide (h : HostSideOnly s t)
  | operation (a : BusAccess) (rest : List Input) (o : Transaction)
      (hin : s.inputs = .access a :: rest) (hsel : selectWindow s.platform a = some o)
      (h : exec (decode o) { s with inputs := rest } = .next t)
  | agentWrote (a : Word) (v : Byte) (rest : List Input) (hin : s.inputs = .memWrite a v :: rest)
      (hplanes : s.busy = true → s.job.inInput a.toNat = false ∧ s.job.inOutput a.toNat = false)
      (h : t = { s with inputs := rest, mem := s.mem.set a.toNat v })
  | cell (rest : List Input) (hbusy : s.busy = true)
      (h : cellStep { s with inputs := rest } = .next t)
  | reset (rest : List Input) (hin : s.inputs = .reset :: rest)
      (h : t = assertReset { s with inputs := rest })

theorem engineTurn_cases {s t : State} {rest : List Input}
    (h : engineTurn { s with inputs := rest } = .next t) : StepGoesOn s t := by
  unfold engineTurn at h
  split at h
  · next hb => exact .cell rest hb h
  · cases h; exact .hostSide rfl

theorem agentWrite_cases {s t : State} {a : Word} {v : Byte} (h : agentWrite a v s = .next t) :
    (s.busy = true → s.job.inInput a.toNat = false ∧ s.job.inOutput a.toNat = false) ∧
      t = { s with mem := s.mem.set a.toNat v } := by
  unfold agentWrite at h
  split at h
  · cases h
  · next hn => cases h; exact ⟨fun hb => by simpa [hb] using hn, rfl⟩

theorem hostRead_hostSideOnly (a : Word) (s : State) (rest : List Input) :
    HostSideOnly s (hostRead a { s with inputs := rest }) := by
  unfold hostRead
  split <;> rfl

theorem step_cases {s t : State} (h : step s = .next t) : StepGoesOn s t := by
  unfold step at h
  split at h
  case h_1 => exact engineTurn_cases (rest := s.inputs) h
  case h_2 a rest hin =>
    unfold runAccess at h
    split at h
    · next o hsel => exact .operation a rest o hin hsel h
    · cases h; exact .hostSide rfl
  case h_3 a v rest hin =>
    obtain ⟨hplanes, ht⟩ := agentWrite_cases h
    exact .agentWrote a v rest hin hplanes ht
  case h_4 a rest hin => cases h; exact .hostSide (hostRead_hostSideOnly a s rest)
  case h_5 rest hin =>
    unfold runWaitIrq at h
    split at h
    · cases h; exact .hostSide rfl
    · exact engineTurn_cases (rest := s.inputs) h
  case h_6 rest hin =>
    unfold runPoll at h
    split at h <;> cases h <;> exact .hostSide rfl
  case h_7 rest hin => exact engineTurn_cases h
  case h_8 rest hin => cases h; exact .reset rest hin rfl

end Sys2Proof.Machine
end

section
/-! SUPPORT. The invariant of the legal states: reset has it and every step keeps it
(spec/10_state.md R23, R35 to R37). -/

namespace Sys2Proof.Machine

/-! ## The output history and the output plane -/

theorem outAddr_eq_rank (j : Job) (c : Coord) :
    j.outAddr c.row c.col = j.dst.toNat + rank j.w.toNat c := Nat.add_assoc ..

theorem rank_lt_count {j : Job} {c : Coord} (hrow : c.row < j.h.toNat) (hcol : c.col < j.w.toNat) :
    rank j.w.toNat c < j.count := by
  have hrows : (c.row + 1) * j.w.toNat ≤ j.h.toNat * j.w.toNat := Nat.mul_le_mul_right _ hrow
  rw [Nat.succ_mul] at hrows
  rw [Job.count, Nat.mul_comm j.w.toNat]
  unfold rank
  omega

/-- Every cell the history lists comes before number `n`. -/
theorem rank_lt_of_historyCovers {w n : Nat} {l : List HistoryCell}
    (h : historyCovers w n l = true) {c : HistoryCell} (hc : c ∈ l) : rank w c.at_ < n := by
  induction l generalizing n with
  | nil => cases hc
  | cons d t ih =>
    simp only [historyCovers, Bool.and_eq_true, decide_eq_true_eq] at h
    obtain ⟨⟨hn, -⟩, ht⟩ := h
    rcases List.mem_cons.mp hc with rfl | hc
    · omega
    · have := ih ht hc
      omega

/-- A computed cell's byte stands in the output plane. -/
theorem history_inOutput {s : State} (h : RunOk s) {c : HistoryCell} (hc : c ∈ s.history) :
    s.job.inOutput (s.job.outAddr c.at_.row c.at_.col) = true := by
  obtain ⟨-, hrow, hcol, hcov, -, -⟩ := h
  have hlt := rank_lt_of_historyCovers hcov hc
  have hpos := rank_lt_count hrow hcol
  rw [outAddr_eq_rank]
  exact (inBytes_iff ..).mpr ⟨by omega, by omega⟩

/-! ## Operations -/

theorem legal_of_hostSideOnly {s t : State} (h : HostSideOnly s t) (hs : Legal s) : Legal t := by
  rw [h]; exact hs

theorem legal_clearStatus {s : State} (v : Word) (hs : Legal s) : Legal (clearStatus v s) := by
  obtain ⟨hmem, ⟨hclear, hset, hle, hbd⟩, hrun, hidle⟩ := hs
  refine ⟨hmem, ?_, fun hb => ?_, hidle⟩
  · cases hv : v.getLsbD 2 <;> simp_all [StatusOk]
  · obtain ⟨hjob, hrow, hcol, hcov, hvals, hcode⟩ := hrun hb
    refine ⟨hjob, hrow, hcol, hcov, hvals, ?_⟩
    cases hv : v.getLsbD 2 <;> simp_all

theorem number_ne_zero {c : ErrCode} (h : c ≠ .none) : c.number ≠ 0#4 := by
  cases c <;> simp_all [ErrCode.number]

theorem number_le_eight (c : ErrCode) : c.number.toNat ≤ 8 := by
  cases c <;> decide

theorem legal_cmdError {s : State} {v : Word} {c : ErrCode} (hc : checkCommand v s = .error c)
    (hs : Legal s) : Legal (cmdError c s) := by
  obtain ⟨hne, -, hbusy⟩ := checkCommand_error hc
  obtain ⟨hmem, ⟨-, -, -, hbd⟩, hrun, hidle⟩ := hs
  refine ⟨hmem, ⟨nofun, fun _ => number_ne_zero hne, number_le_eight c, hbd⟩, fun hb => ?_, hidle⟩
  obtain ⟨hjob, hrow, hcol, hcov, hvals, -⟩ := hrun hb
  exact ⟨hjob, hrow, hcol, hcov, hvals, fun _ => by rw [hbusy hb]; rfl⟩

theorem sext32_bounds (v : Word) : -2147483648 ≤ sext32 v ∧ sext32 v ≤ 2147483647 := by
  have := v.isLt
  unfold sext32
  split <;> omega

/-- The kernel side that the checks resolve is 2R + 1, but for IIR, which has none. -/
theorem kernelOk_snapshot {op : FilterKind} {f : BitVec 8} {k : Nat} (h : resolveK op f = .ok k)
    (s : State) : KernelOk (snapshot op k s) := by
  obtain ⟨hiir, hodd⟩ := resolveK_ok h
  refine ⟨fun ho => ?_, fun ho => ?_⟩
  · have := hiir ho
    simp [snapshot, this]
  · have := hodd ho
    simp only [snapshot]
    split <;> omega

/-- The snapshot of a command that passes the checks. -/
theorem jobOk_snapshot {v : Word} {s : State} {op : FilterKind} {k : Nat}
    (h : checkCommand v s = .ok (op, k)) : JobOk (snapshot op k s) := by
  obtain ⟨-, -, -, -, hk, hp⟩ := checkCommand_ok h
  obtain ⟨hw, hh, hsrc, hdst, hplace⟩ := (checkPlanes_ok_iff ..).mp hp
  exact ⟨hw, hh, hsrc, hdst, hplace, kernelOk_snapshot hk s, sext32_bounds s.lambda⟩

theorem legal_accept {v : Word} {s : State} {op : FilterKind} {k : Nat}
    (h : checkCommand v s = .ok (op, k)) (hs : Legal s) : Legal (accept op k v s) := by
  have hjob := jobOk_snapshot h
  obtain ⟨hw, hh, -⟩ := jobOk_snapshot h
  obtain ⟨hmem, -⟩ := hs
  have hrow : 0 < s.height.toNat := BitVec.toNat_pos_of_ne_zero hh
  have hcol : 0 < s.width.toNat := BitVec.toNat_pos_of_ne_zero hw
  exact ⟨hmem, ⟨fun _ => rfl, nofun, Nat.zero_le _, by simp⟩,
    fun _ => ⟨hjob, hrow, hcol, by simp [historyCovers, rank], by simp, nofun⟩, nofun⟩

theorem legal_command {s : State} (v : Word) (hs : Legal s) : Legal (command v s) := by
  rcases command_cases v s with ⟨c, hc, he⟩ | ⟨op, k, hc, he⟩ <;> rw [he]
  · exact legal_cmdError hc hs
  · exact legal_accept hc hs

/-- Every operation keeps the invariant. -/
theorem legal_exec {i : Instr} {s t : State} (h : exec i s = .next t) (hs : Legal s) : Legal t := by
  rcases exec_cases h with hside | ⟨v, -, rfl⟩ | ⟨v, rfl⟩
  · exact legal_of_hostSideOnly hside hs
  · exact legal_clearStatus v hs
  · exact legal_command v hs

/-! ## Memory, the engine and reset -/

/-- An agent's write beside the running job's output plane keeps the invariant. -/
theorem legal_agentWrote {s : State} {a : Word} (v : Byte)
    (hplanes : s.busy = true → s.job.inOutput a.toNat = false) (hs : Legal s) :
    Legal { s with mem := s.mem.set a.toNat v } := by
  obtain ⟨hmem, hstatus, hrun, hidle⟩ := hs
  refine ⟨Memory.wf_set hmem v a.isLt, hstatus, fun hb => ?_, hidle⟩
  obtain ⟨hjob, hrow, hcol, hcov, hvals, hcode⟩ := hrun hb
  refine ⟨hjob, hrow, hcol, hcov, fun c hc => ?_, hcode⟩
  have hother : s.job.outAddr c.at_.row c.at_.col ≠ a.toNat := by
    intro heq
    have hin := history_inOutput (hrun hb) hc
    rw [heq, hplanes hb] at hin
    cases hin
  rw [← hvals c hc]
  exact Memory.get_set_other _ v hother

theorem legal_jobAbort {s : State} (hs : Legal s) : Legal (jobAbort .bus s) := by
  obtain ⟨hmem, -⟩ := hs
  have hcode : ErrCode.bus.number ≠ 0#4 := number_ne_zero nofun
  exact ⟨Memory.wf_scramble hmem .., ⟨nofun, fun _ => hcode, number_le_eight .bus, by simp⟩,
    nofun, fun _ => rfl⟩

/-- The scan stays inside the plane unless it comes to where a job completes. -/
theorem nextPos_row_lt {w h : Nat} {c : Coord} (hrow : c.row < h) (hne : nextPos w c ≠ ⟨h, 0⟩) :
    (nextPos w c).row < h := by
  unfold nextPos at hne ⊢
  by_cases hlast : c.col + 1 < w
  · simpa [hlast] using hrow
  · simp only [hlast, if_false] at hne ⊢
    have : c.row + 1 ≠ h := fun e => hne (by rw [e])
    omega

/-- Writing the cell at pos keeps the invariant: every history cell stands before pos, so its byte in
the output plane is not the one written. -/
theorem legal_finishCell {s : State} (v : Byte) (hs : Legal s) (hb : s.busy = true)
    (ha : s.job.outAddr s.pos.row s.pos.col < Config.dataSpace) :
    Legal (finishCell s (s.mem.set (s.job.outAddr s.pos.row s.pos.col) v) v) := by
  obtain ⟨hmem, hstatus, hrun, -⟩ := hs
  obtain ⟨hjob, hrow, hcol, hcov, hvals, hcode⟩ := hrun hb
  have hwf := Memory.wf_set hmem v ha
  obtain ⟨hrank, hcol'⟩ := rank_nextPos hcol
  rcases finishCell_cases s (s.mem.set (s.job.outAddr s.pos.row s.pos.col) v) v with
    ⟨hne, he⟩ | ⟨-, he⟩ <;> rw [he]
  · refine ⟨hwf, hstatus, fun _ => ⟨hjob, nextPos_row_lt hrow hne, hcol', ?_, ?_, hcode⟩,
      fun hi => absurd (hb.symm.trans hi) nofun⟩
    · simp [historyCovers, hrank, hcol, hcov]
    · intro c hc
      rcases List.mem_cons.mp hc with rfl | hc
      · exact Memory.get_set_same ..
      · have hlt := rank_lt_of_historyCovers hcov hc
        rw [← hvals c hc]
        refine Memory.get_set_other _ v ?_
        simp only [outAddr_eq_rank]
        omega
  · obtain ⟨hclear, hset, hle, -⟩ := hstatus
    exact ⟨hwf, ⟨hclear, hset, hle, by simp⟩, nofun, fun _ => rfl⟩

theorem legal_cellStep {s t : State} (h : cellStep s = .next t) (hb : s.busy = true)
    (hs : Legal s) : Legal t := by
  have hends := cellStep_cases s
  rw [h] at hends
  cases hends with
  | wrote v hv ha hm => exact legal_finishCell v hs hb ha
  | aborted he => exact legal_jobAbort hs

/-- Settles O48: after reset the block is idle, with no error and an empty history. -/
theorem resetIsLegal : Obligations.ResetIsLegal :=
  ⟨rfl, ⟨fun _ => rfl, nofun, Nat.zero_le _, by simp [State.reset]⟩, nofun, fun _ => rfl⟩

/-- Reset leaves memory as it is, but for the output plane of a job it cuts. -/
theorem assertReset_mem (s : State) :
    (assertReset s).mem =
      if s.busy then s.mem.scramble s.freeCount s.job.dst.toNat s.job.count else s.mem := by
  simp only [assertReset]
  split <;> rfl

/-- Reset keeps of the old state only what the invariant asks nothing of, and the form of memory. -/
theorem legal_assertReset {s : State} (hs : Legal s) : Legal (assertReset s) := by
  obtain ⟨hmem, -⟩ := hs
  have hmem' : (assertReset s).mem.wf = true := by
    rw [assertReset_mem]
    split
    · exact Memory.wf_scramble hmem ..
    · exact hmem
  obtain ⟨-, hstatus, -, -⟩ := resetIsLegal
  exact ⟨hmem', hstatus, nofun, fun _ => rfl⟩

/-- Settles O49, by the ways a step goes on. -/
theorem stepKeepsLegal : Obligations.StepKeepsLegal := by
  intro s t hs h
  cases step_cases h with
  | hostSide h => exact legal_of_hostSideOnly h hs
  | operation a rest o hin hsel h => exact legal_exec h hs
  | agentWrote a v rest hin hplanes h =>
    rw [h]; exact legal_agentWrote v (fun hb => (hplanes hb).2) hs
  | cell rest hb h => exact legal_cellStep h hb hs
  | reset rest hin h => rw [h]; exact legal_assertReset hs

end Sys2Proof.Machine
end

section
/-! SUPPORT. DONE and ERR over a step, registers read back, and the reset input (spec/10_state.md R22,
R24, R26 to R29, R38). -/

namespace Sys2Proof.Machine

/-! ## DONE and ERR -/

/-- Neither DONE nor ERR falls from `s` to `t`. -/
def KeepsDoneAndErr (s t : State) : Prop :=
  (s.done = true → t.done = true) ∧ (s.err = true → t.err = true)

theorem keepsDoneAndErr_of_hostSideOnly {s t : State} (h : HostSideOnly s t) :
    KeepsDoneAndErr s t :=
  ⟨fun hd => h.done_eq.trans hd, fun he => h.err_eq.trans he⟩

/-- The engine sets DONE and ERR and clears neither. -/
theorem keepsDoneAndErr_cellStep {s t : State} (h : cellStep s = .next t) : KeepsDoneAndErr s t := by
  have hends := cellStep_cases s
  rw [h] at hends
  cases hends with
  | wrote v hv ha hm =>
    rcases finishCell_cases s (s.mem.set (s.job.outAddr s.pos.row s.pos.col) v) v with
      ⟨-, he⟩ | ⟨-, he⟩ <;> rw [he]
    · exact ⟨id, id⟩
    · exact ⟨fun _ => rfl, id⟩
  | aborted he => exact ⟨fun _ => rfl, fun _ => rfl⟩

/-- A command clears DONE and ERR only when it is accepted. -/
theorem command_rises_or_keeps (v : Word) (s : State) :
    (s.busy = false ∧ (command v s).busy = true) ∨ KeepsDoneAndErr s (command v s) := by
  rcases command_cases v s with ⟨c, -, he⟩ | ⟨op, k, hc, he⟩ <;> rw [he]
  · exact .inr ⟨id, fun _ => rfl⟩
  · exact .inl ⟨(checkCommand_ok hc).1, rfl⟩

/-- What a step can do to DONE and ERR: reset, an acceptance and the W1C write may clear them, and
every other step keeps them. -/
theorem step_done_err_cases {s t : State} (h : step s = .next t) :
    (∃ rest, s.inputs = .reset :: rest) ∨ (s.busy = false ∧ t.busy = true) ∨
      (∃ a rest o v, s.inputs = .access a :: rest ∧ selectWindow s.platform a = some o ∧
        decode o = .wrStatus v ∧ t.done = (s.done && !v.getLsbD 1) ∧
        t.err = (s.err && !v.getLsbD 2)) ∨
      KeepsDoneAndErr s t := by
  cases step_cases h with
  | hostSide h => exact .inr (.inr (.inr (keepsDoneAndErr_of_hostSideOnly h)))
  | operation a rest o hin hsel h =>
    rcases exec_cases h with hside | ⟨v, hi, rfl⟩ | ⟨v, rfl⟩
    · exact .inr (.inr (.inr (keepsDoneAndErr_of_hostSideOnly hside)))
    · exact .inr (.inr (.inl ⟨a, rest, o, v, hin, hsel, hi, rfl, rfl⟩))
    · rcases command_rises_or_keeps v { s with inputs := rest } with hrise | hkeep
      · exact .inr (.inl hrise)
      · exact .inr (.inr (.inr hkeep))
  | agentWrote a v rest hin hplanes h => rw [h]; exact .inr (.inr (.inr ⟨id, id⟩))
  | cell rest hb h =>
    exact .inr (.inr (.inr (keepsDoneAndErr_cellStep (s := { s with inputs := rest }) h)))
  | reset rest hin h => exact .inl ⟨rest, hin⟩

/-- Settles O30, from what a step can do to DONE and ERR. -/
theorem doneAndErrClearedOnlyByHost : Obligations.DoneAndErrClearedOnlyByHost := by
  intro s t h
  rcases step_done_err_cases h with
    hreset | hrise | ⟨a, rest, o, v, hin, hsel, hdec, hdone, herr⟩ | ⟨hdone, herr⟩
  · exact ⟨fun _ => .inl hreset, fun _ => .inl hreset⟩
  · exact ⟨fun _ => .inr (.inl hrise), fun _ => .inr (.inl hrise)⟩
  · refine ⟨fun ⟨hs, ht⟩ => .inr (.inr ⟨a, rest, o, v, hin, hsel, hdec, ?_⟩),
      fun ⟨hs, ht⟩ => .inr (.inr ⟨a, rest, o, v, hin, hsel, hdec, ?_⟩)⟩
    · simpa [hs, ht] using hdone
    · simpa [hs, ht] using herr
  · exact ⟨fun ⟨hs, ht⟩ => absurd (hdone hs) (by simp [ht]),
      fun ⟨hs, ht⟩ => absurd (herr hs) (by simp [ht])⟩

/-! ## Registers read back -/

/-- IRQ_EN as CTRL returns it. -/
theorem boolWord_getLsbD_zero (v : Word) : boolWord (v.getLsbD 0) = v &&& 0x00000001#32 := by
  apply BitVec.eq_of_toNat_eq
  rcases Nat.mod_two_eq_zero_or_one v.toNat with h | h <;>
    simp [boolWord, BitVec.getLsbD, Nat.testBit_zero, h]

/-- A 16-bit field as its register returns it. -/
theorem zext32_low16 (v : Word) : zext32 (low16 v) = v &&& 0x0000FFFF#32 := by
  apply BitVec.eq_of_toNat_eq
  have hmask : v.toNat &&& 65535 = v.toNat % 65536 := Nat.and_two_pow_sub_one_eq_mod v.toNat 16
  have hfits : v.toNat % 65536 % 4294967296 = v.toNat % 65536 := by omega
  simpa [zext32, low16, hmask] using hfits

/-- Settles O23: each read gives the field just written, its bits back in place. -/
theorem writtenRegistersReadBack : Obligations.WrittenRegistersReadBack := by
  intro s t v
  refine ⟨fun h => ?ctrl, fun h => ?width, fun h => ?height, fun h => ?src, fun h => ?dst,
    fun h => ?lambda⟩ <;> cases h
  case ctrl => rw [← boolWord_getLsbD_zero]; rfl
  case width => rw [← zext32_low16]; rfl
  case height => rw [← zext32_low16]; rfl
  case src => rfl
  case dst => rfl
  case lambda => rfl

/-! ## The reset input -/

/-- Settles O53: the registers by computing, memory by what a scramble leaves and gives. -/
theorem resetClearsTheBlock : Obligations.ResetClearsTheBlock := by
  intro s rest hin
  have hstep : step s = .next (assertReset { s with inputs := rest }) := by
    unfold step; rw [hin]
  refine ⟨_, hstep, rfl, rfl, rfl, rfl, rfl, rfl, rfl, rfl, rfl, rfl, rfl, rfl, rfl, rfl, ?_, ?_, ?_⟩
  · intro hb
    simp [assertReset_mem, hb]
  · intro a ha
    rw [assertReset_mem]
    split
    · exact Memory.get_scramble_other _ _ _ _ ha
    · rfl
  · intro a hb ha hlt
    simp only [assertReset_mem, hb, if_true]
    exact Memory.get_scramble_inside _ _ _ _ ha hlt

end Sys2Proof.Machine
end

section
/-! SUPPORT. How a step runs the pending moves of the host, and the register window: lanes, reads, illegal
accesses (spec/20_memory.md R60, R63, R65, R76). -/

namespace Sys2Proof.Machine

/-! ## The first pending move -/

/-- The host's own access to a transaction runs the operation that the transaction decodes to. -/
theorem step_busAccessOf {s : State} {t : Transaction} {rest : List Input}
    (hin : s.inputs = .access (busAccessOf s.platform t) :: rest) :
    step s = exec (decode t) { s with inputs := rest } := by
  simp only [step, hin, runAccess, selectWindow_busAccessOf]

theorem step_memWrite {s : State} {a : Word} {v : Byte} {rest : List Input}
    (hin : s.inputs = .memWrite a v :: rest) :
    step s = agentWrite a v { s with inputs := rest } := by
  simp only [step, hin]

theorem step_memRead {s : State} {a : Word} {rest : List Input}
    (hin : s.inputs = .memRead a :: rest) :
    step s = .next (hostRead a { s with inputs := rest }) := by
  simp only [step, hin]

/-! ## Lanes -/

/-- Bit n of lane k is bit 8k + n of the register. -/
theorem byteLane_getLsbD (v : Word) (k : Nat) {n : Nat} (hn : n < 8) :
    (byteLane v k).getLsbD n = v.getLsbD (8 * k + n) := by
  simp [byteLane, hn]

theorem laneAt_inside (p : Platform) (o : BitVec 12) (v : Word) {k : Nat} (hk : k < 4) :
    laneAt p o v (p.regBase + o.toNat + k) = some (byteLane v k) := by
  simp [laneAt, inBytes, hk]

theorem laneAt_outside {p : Platform} {o : BitVec 12} {a : Nat} (v : Word)
    (h : a < p.regBase + o.toNat ∨ p.regBase + o.toNat + 4 ≤ a) : laneAt p o v a = none := by
  have hout : ¬inBytes (p.regBase + o.toNat) 4 a = true := by rw [inBytes_iff]; omega
  simp [laneAt, hout]

/-- Settles O12: the byte on lane k is byte k of the register. -/
theorem registerLanesAreLittleEndian : Obligations.RegisterLanesAreLittleEndian := by
  intro p o v
  refine ⟨fun k hk => ⟨byteLane v k, laneAt_inside p o v hk, fun n hn => byteLane_getLsbD v k hn⟩, ?_⟩
  exact fun a ha => laneAt_outside v ha

/-! ## Reads -/

/-- A read, an illegal one included, completes and changes only the answer. -/
theorem exec_read {i : Instr} (hr : i.isWrite = false) (s : State) :
    ∃ ans, exec i s = .next { s with answer := ans } :=
  match i, hr with
  | .rdId, _ | .rdCtrl, _ | .rdStatus, _ | .rdCmd, _ | .rdWidth, _ | .rdHeight, _
  | .rdSrcBase, _ | .rdDstBase, _ | .rdLambda, _ | .rdRsvd _, _ | .illegalAccess .., _ => ⟨_, rfl⟩

/-- Settles O18: the state after a read is the one before it with another answer. -/
theorem readsHaveNoSideEffect : Obligations.ReadsHaveNoSideEffect := by
  intro i s t hr h
  obtain ⟨ans, he⟩ := exec_read hr s
  rw [he] at h
  cases h
  rfl

/-! ## Illegal accesses -/

/-- A wrong size or a misaligned offset makes a transaction an illegal access, whatever its data. -/
theorem decode_illegal {t : Transaction} (h : t.size ≠ 4 ∨ t.offset.toNat % 4 ≠ 0) :
    ∃ v, decode t = .illegalAccess t.write t.offset t.size v := by
  have hill : t.size ≠ 4 ∨ offsetAligned t.offset = false := by simpa [offsetAligned] using h
  exact ⟨_, if_pos hill⟩

/-- An illegal access is answered with a bus error, and that is all it does. -/
theorem exec_illegalAccess (w : Bool) (o : BitVec 12) (n : Nat) (v : Word) (s : State) :
    exec (.illegalAccess w o n v) s = .next { s with answer := .busError } := rfl

/-- Settles O24: the operation's own effect, and the step that decodes to it. -/
theorem illegalAccessAnswersBusError : Obligations.IllegalAccessAnswersBusError := by
  refine ⟨fun s w o n v _ => exec_illegalAccess w o n v s, fun s t rest hill hin => ?_⟩
  obtain ⟨v, hdec⟩ := decode_illegal hill
  rw [step_busAccessOf hin, hdec, exec_illegalAccess]

end Sys2Proof.Machine
end

section
/-! SUPPORT. Data memory as the host and the other agents meet it: the canonical form is determined by
its reads, and what their accesses do (spec/20_memory.md R61, R77, R78). -/

namespace Sys2Proof.Machine

/-! ## The canonical form is determined by its reads -/

theorem Memory.get_cons_same (a : Nat) (v : Byte) (t : Memory) : Memory.get ((a, v) :: t) a = v :=
  if_pos rfl

theorem Memory.get_cons_other {a b : Nat} (v : Byte) (t : Memory) (h : a ≠ b) :
    Memory.get ((b, v) :: t) a = t.get a :=
  if_neg h

/-- An address below every entry is not listed. -/
theorem Memory.get_of_forall_lt {m : Memory} {a : Nat} (h : ∀ c ∈ m, a < c.1) :
    m.get a = unwrittenByte := by
  induction m with
  | nil => rfl
  | cons c t ih =>
    obtain ⟨hc, ht⟩ := List.forall_mem_cons.mp h
    rw [Memory.get_cons_other c.2 t hc.ne, ih ht]

/-- No address below the first entry of a canonical memory holds a written byte. -/
theorem Memory.head_le_of_get_ne {a b : Nat} {w : Byte} {t : Memory}
    (hwf : Memory.wf ((b, w) :: t) = true) (h : Memory.get ((b, w) :: t) a ≠ unwrittenByte) :
    b ≤ a := by
  obtain ⟨-, -, hlt, -⟩ := (Memory.wf_cons b w t).mp hwf
  by_contra hab
  have hab : a < b := by omega
  exact h (Memory.get_of_forall_lt
    (List.forall_mem_cons.mpr ⟨hab, fun c hc => hab.trans (hlt c hc)⟩))

/-- A canonical memory with an entry does not read like the empty one. -/
theorem Memory.get_head_ne {a : Nat} {v : Byte} {t : Memory}
    (hwf : Memory.wf ((a, v) :: t) = true) : Memory.get ((a, v) :: t) a ≠ unwrittenByte := by
  obtain ⟨-, hv, -, -⟩ := (Memory.wf_cons a v t).mp hwf
  rwa [Memory.get_cons_same]

/-- Two canonical memories that read alike have the same first entry, since each one's first address
bounds the other's, and their tails read alike. -/
theorem Memory.head_and_tail_agree {a b : Nat} {v w : Byte} {t t' : Memory}
    (hwf : Memory.wf ((a, v) :: t) = true) (hwf' : Memory.wf ((b, w) :: t') = true)
    (hget : ∀ x, Memory.get ((a, v) :: t) x = Memory.get ((b, w) :: t') x) :
    (a, v) = (b, w) ∧ ∀ x, t.get x = t'.get x := by
  have hba : b ≤ a := Memory.head_le_of_get_ne hwf' (hget a ▸ Memory.get_head_ne hwf)
  have hab : a ≤ b := Memory.head_le_of_get_ne hwf ((hget b).symm ▸ Memory.get_head_ne hwf')
  obtain rfl : a = b := le_antisymm hab hba
  have hvw : v = w := by simpa only [Memory.get_cons_same] using hget a
  refine ⟨by rw [hvw], fun x => ?_⟩
  obtain ⟨-, -, hlt, -⟩ := (Memory.wf_cons a v t).mp hwf
  obtain ⟨-, -, hlt', -⟩ := (Memory.wf_cons a w t').mp hwf'
  by_cases hx : x = a
  · rw [hx, Memory.get_of_forall_lt hlt, Memory.get_of_forall_lt hlt']
  · simpa only [Memory.get_cons_other _ _ hx] using hget x

/-- Settles O52, by induction on both lists. -/
theorem canonicalMemoriesAreEqual : Obligations.CanonicalMemoriesAreEqual := by
  intro m
  induction m with
  | nil =>
    intro m' _ hwf' hget
    cases m' with
    | nil => rfl
    | cons d t' => exact absurd (hget d.1).symm (Memory.get_head_ne hwf')
  | cons c t ih =>
    intro m' hwf hwf' hget
    cases m' with
    | nil => exact absurd (hget c.1) (Memory.get_head_ne hwf)
    | cons d t' =>
      obtain ⟨-, -, -, ht⟩ := (Memory.wf_cons c.1 c.2 t).mp hwf
      obtain ⟨-, -, -, ht'⟩ := (Memory.wf_cons d.1 d.2 t').mp hwf'
      obtain ⟨hhead, htail⟩ := Memory.head_and_tail_agree hwf hwf' hget
      rw [show c = d from hhead, ih t' ht ht' htail]

/-! ## Accesses of the host and of other agents -/

/-- A write beside the running job's planes stores its byte. -/
theorem agentWrite_stores {s : State} {a : Word} (v : Byte)
    (h : s.busy = true → s.job.inInput a.toNat = false ∧ s.job.inOutput a.toNat = false) :
    agentWrite a v s = .next { s with mem := s.mem.set a.toNat v } := by
  refine if_neg fun ⟨hb, hplane⟩ => ?_
  obtain ⟨hi, ho⟩ := h hb
  simp [hi, ho] at hplane

/-- A write to a plane of the running job is refused. -/
theorem agentWrite_refused {s : State} {a : Word} (v : Byte) (hb : s.busy = true)
    (h : s.job.inInput a.toNat = true ∨ s.job.inOutput a.toNat = true) :
    agentWrite a v s = .refused .hostInterference :=
  if_pos ⟨hb, h⟩

theorem hostRead_memory {s : State} {a : Word}
    (h : ¬(s.busy = true ∧ s.job.inOutput a.toNat = true)) :
    hostRead a s = { s with answer := .byte (s.mem.get a.toNat) } :=
  if_neg h

theorem hostRead_unspecified {s : State} {a : Word}
    (h : s.busy = true ∧ s.job.inOutput a.toNat = true) :
    hostRead a s =
      { s with
        answer := .byte (Config.freeByte s.freeCount a.toNat)
        freeCount := s.freeCount + 1 } :=
  if_pos h

/-- Settles O55: the write by what a read after it gives, the read by where its byte stands. -/
theorem hostDataAccesses : Obligations.HostDataAccesses := by
  intro s a rest
  refine ⟨fun v hin hplanes => ?write, fun hin => ⟨fun h => ?byte, fun h => ?free⟩⟩
  case write =>
    refine ⟨{ s with inputs := rest, mem := s.mem.set a.toNat v }, ?_, rfl,
      Memory.get_set_same .., fun b hb => Memory.get_set_other _ v hb⟩
    rw [step_memWrite hin, agentWrite_stores (s := { s with inputs := rest }) v hplanes]
  case byte => rw [step_memRead hin, hostRead_memory (s := { s with inputs := rest }) h]
  case free => rw [step_memRead hin, hostRead_unspecified (s := { s with inputs := rest }) h]

end Sys2Proof.Machine
end

section
/-! SUPPORT. Where the engine reads and writes: a cell reads the input plane, a step writes the output
plane, and neither leaves the data space (spec/20_memory.md R61, R62, R68, R70, R78). -/

namespace Sys2Proof.Machine

/-! ## Plane addresses -/

/-- The sample of a coordinate inside the plane is one of the plane's bytes. -/
theorem inBytes_sampleAddr (base : Nat) {j : Job} {c : Coord} (hrow : c.row < j.h.toNat)
    (hcol : c.col < j.w.toNat) :
    inBytes base j.count (sampleAddr base j.w.toNat c.row c.col) = true := by
  have hlt := rank_lt_count hrow hcol
  unfold rank at hlt
  rw [inBytes_iff, sampleAddr]
  omega

theorem inInput_inAddr {j : Job} {c : Coord} (hrow : c.row < j.h.toNat) (hcol : c.col < j.w.toNat) :
    j.inInput (j.inAddr c.row c.col) = true :=
  inBytes_sampleAddr _ hrow hcol

theorem inOutput_outAddr {j : Job} {c : Coord} (hrow : c.row < j.h.toNat)
    (hcol : c.col < j.w.toNat) : j.inOutput (j.outAddr c.row c.col) = true :=
  inBytes_sampleAddr _ hrow hcol

/-! ## A cell reads only the input plane -/

theorem sumInputs_congr_reads {s t : State} {l : List Coord}
    (h : ∀ x ∈ l, readInput t x = readInput s x) : sumInputs t l = sumInputs s l := by
  induction l with
  | nil => rfl
  | cons x l ih =>
    obtain ⟨hx, hl⟩ := List.forall_mem_cons.mp h
    simp only [sumInputs, hx, ih hl]

/-- Another memory gives a cell the same value when its sample and its window read the same. -/
theorem cellValue_congr_reads {s : State} {m : Memory} {x : Coord}
    (hread : readInput { s with mem := m } x = readInput s x)
    (hacc : accumulate { s with mem := m } x = accumulate s x) :
    cellValue { s with mem := m } x = cellValue s x := by
  simp only [cellValue, cellIir, cellBox, cellSharpen, iirNumerator, historyGet, hread, hacc]

/-- Settles O41: a cell reads its own sample and its window, all inside the input plane. -/
theorem cellReadsOnlyTheInputPlane : Obligations.CellReadsOnlyTheInputPlane := by
  intro s m x hrow hcol hm
  have hread : ∀ y : Coord, y.row < s.job.h.toNat → y.col < s.job.w.toNat →
      readInput { s with mem := m } y = readInput s y := fun y hr hc => by
    simp only [readInput, memRead, hm _ (inInput_inAddr hr hc)]
  refine cellValue_congr_reads (hread x hrow hcol) (sumInputs_congr_reads fun y hy => ?_)
  obtain ⟨hr, hc⟩ := window_inside hy
  exact hread y hr hc

/-! ## A step writes only the output plane -/

theorem HostSideOnly.mem_eq {s t : State} (h : HostSideOnly s t) : t.mem = s.mem := by
  rw [h]

theorem finishCell_mem (s : State) (m : Memory) (v : Byte) : (finishCell s m v).mem = m := by
  rcases finishCell_cases s m v with ⟨-, he⟩ | ⟨-, he⟩ <;> rw [he]

/-- A cell step inside the plane, an aborting one included, leaves every byte outside the output plane
alone. -/
theorem cellStep_get_other {s t : State} {a : Nat} (h : cellStep s = .next t)
    (hrow : s.pos.row < s.job.h.toNat) (hcol : s.pos.col < s.job.w.toNat)
    (ha : s.job.inOutput a = false) : t.mem.get a = s.mem.get a := by
  have hends := cellStep_cases s
  rw [h] at hends
  cases hends with
  | wrote v hv hspace hm =>
    have hne : a ≠ s.job.outAddr s.pos.row s.pos.col := by
      rintro rfl
      simp [inOutput_outAddr hrow hcol] at ha
    rw [finishCell_mem, Memory.get_set_other _ v hne]
  | aborted he => exact Memory.get_scramble_other _ _ _ _ ha

/-- Reset leaves every byte alone that is not an output-plane byte of a job it cuts. -/
theorem assertReset_get_other {s : State} {a : Nat}
    (h : ¬(s.busy = true ∧ s.job.inOutput a = true)) :
    (assertReset s).mem.get a = s.mem.get a := by
  rw [assertReset_mem]
  split
  · next hb =>
    exact Memory.get_scramble_other _ _ _ _ (Bool.eq_false_iff.mpr fun ho => h ⟨hb, ho⟩)
  · rfl

/-- Settles O47, by the ways a step goes on: a byte that is no output-plane byte of a running job is
as it was. -/
theorem onlyTheOutputPlaneIsWritten : Obligations.OnlyTheOutputPlaneIsWritten := by
  intro s t hs h hnowrite a hchanged
  by_contra hout
  refine hchanged ?_
  cases step_cases h with
  | hostSide h => rw [h.mem_eq]
  | operation b rest o hin hsel h =>
    obtain ⟨hmem, -⟩ := exec_keeps h
    rw [hmem]
  | agentWrote b v rest hin hplanes h => exact absurd hin (hnowrite b v rest)
  | cell rest hb h =>
    obtain ⟨-, -, hrun, -⟩ := hs
    obtain ⟨-, hrow, hcol, -⟩ := hrun hb
    exact cellStep_get_other (s := { s with inputs := rest }) h hrow hcol
      (Bool.eq_false_iff.mpr fun ho => hout ⟨hb, ho⟩)
  | reset rest hin h => rw [h]; exact assertReset_get_other hout

/-! ## How a step stops -/

/-- The ways a step ends: it goes on, it is a cell step of the engine, or an agent's write to a plane of
the running job is refused. -/
inductive StepEnds (s : State) (o : Host.Outcome State Fault Refusal) : Prop where
  | goesOn (t : State) (h : o = .next t)
  | cell (rest : List Input) (hbusy : s.busy = true) (h : o = cellStep { s with inputs := rest })
  | interference (a : Word) (v : Byte) (rest : List Input) (hin : s.inputs = .memWrite a v :: rest)
      (hbusy : s.busy = true)
      (hplane : s.job.inInput a.toNat = true ∨ s.job.inOutput a.toNat = true)
      (h : o = .refused .hostInterference)

theorem engineTurn_ends (s : State) (rest : List Input) :
    StepEnds s (engineTurn { s with inputs := rest }) := by
  unfold engineTurn
  split
  · next hb => exact .cell rest hb rfl
  · exact .goesOn _ rfl

theorem exec_ends (i : Instr) (s u : State) : StepEnds s (exec i u) := by
  obtain ⟨t, h⟩ := exec_next i u
  exact .goesOn t h

theorem step_ends (s : State) : StepEnds s (step s) := by
  unfold step
  split
  case h_1 => exact engineTurn_ends s s.inputs
  case h_2 a rest hin =>
    unfold runAccess
    split
    · exact exec_ends ..
    · exact .goesOn _ rfl
  case h_3 a v rest hin =>
    unfold agentWrite
    split
    · next h =>
      obtain ⟨hb, hplane⟩ := h
      exact .interference a v rest hin hb hplane rfl
    · exact .goesOn _ rfl
  case h_4 a rest hin => exact .goesOn _ rfl
  case h_5 rest hin =>
    unfold runWaitIrq
    split
    · exact .goesOn _ rfl
    · exact engineTurn_ends s s.inputs
  case h_6 rest hin => exact exec_ends ..
  case h_7 rest hin => exact engineTurn_ends s rest
  case h_8 rest hin => exact .goesOn _ rfl

/-- The engine refuses nothing. -/
theorem cellStep_ne_refused (s : State) (r : Refusal) : cellStep s ≠ .refused r := by
  intro h
  have hends := cellStep_cases s
  rw [h] at hends
  cases hends

/-- Settles O51: of the ways a step ends only the agent's write is a refusal. -/
theorem onlyInterferenceIsRefused : Obligations.OnlyInterferenceIsRefused := by
  intro s r
  constructor
  · intro h
    cases step_ends s with
    | goesOn t he => rw [h] at he; cases he
    | cell rest hb he => exact absurd (he.symm.trans h) (cellStep_ne_refused _ r)
    | interference a v rest hin hb hplane he =>
      rw [h] at he
      cases he
      exact ⟨rfl, hb, a, v, rest, hin, hplane⟩
  · rintro ⟨rfl, hb, a, v, rest, hin, hplane⟩
    rw [step_memWrite hin]
    exact agentWrite_refused v hb hplane

/-! ## No address outside the data space -/

/-- A cell that meets an address outside the data space met it at its own sample or in its window. -/
theorem cellValue_noAddress {s : State} {x : Coord} (h : cellValue s x = .noAddress) :
    readInput s x = .noAddress ∨ accumulate s x = .noAddress := by
  unfold cellValue at h
  split at h
  · unfold cellIir at h
    split at h
    · cases h
    · cases h
    · next hr => exact .inl hr
  · unfold cellBox at h
    split at h
    · cases h
    · cases h
    · next ha => exact .inr ha
  · unfold cellSharpen at h
    split at h
    · split at h
      · cases h
      · cases h
      · next ha => exact .inr ha
    · cases h
    · next hr => exact .inl hr

/-- An input plane within the data space has every sample. -/
theorem readInput_ne_noAddress {s : State} {x : Coord}
    (hsrc : s.job.src.toNat + s.job.count ≤ Config.dataSpace)
    (hrow : x.row < s.job.h.toNat) (hcol : x.col < s.job.w.toNat) :
    readInput s x ≠ .noAddress := by
  intro h
  have hout := (memRead_noAddress_iff ..).mp h
  have hin := (inBytes_iff ..).mp (inInput_inAddr hrow hcol)
  omega

theorem cellValue_ne_noAddress {s : State} {x : Coord}
    (hsrc : s.job.src.toNat + s.job.count ≤ Config.dataSpace)
    (hrow : x.row < s.job.h.toNat) (hcol : x.col < s.job.w.toNat) :
    cellValue s x ≠ .noAddress := by
  intro h
  rcases cellValue_noAddress h with hr | hacc
  · exact readInput_ne_noAddress hsrc hrow hcol hr
  · obtain ⟨y, hy, hr⟩ := sumInputs_noAddress hacc
    obtain ⟨hyrow, hycol⟩ := window_inside hy
    exact readInput_ne_noAddress hsrc hyrow hycol hr

/-- The cell step of a running job does not fault: both planes lie within the data space. -/
theorem cellStep_ne_fault {s : State} (hrun : RunOk s) (f : Fault) : cellStep s ≠ .fault f := by
  intro h
  obtain ⟨⟨-, -, hsrc, hdst, -⟩, hrow, hcol, -⟩ := hrun
  have hends := cellStep_cases s
  rw [h] at hends
  cases hends with
  | outside hout =>
    rcases hout with hv | ha
    · exact cellValue_ne_noAddress hsrc hrow hcol hv
    · have hin := (inBytes_iff ..).mp (inOutput_outAddr hrow hcol)
      omega

/-- Settles O50: of the ways a step ends only a cell step could fault. -/
theorem legalStatesNeverFault : Obligations.LegalStatesNeverFault := by
  intro s f hs h
  cases step_ends s with
  | goesOn t he => rw [h] at he; cases he
  | cell rest hb he =>
    obtain ⟨-, -, hrun, -⟩ := hs
    exact cellStep_ne_fault (s := { s with inputs := rest }) (hrun hb) f (he.symm.trans h)
  | interference a v rest hin hb hplane he => rw [h] at he; cases he

end Sys2Proof.Machine
end

section
/-! SUPPORT. The decoder and the encoder undo each other (spec/30_encoding.md R90 to R99). -/

namespace Sys2Proof

/-! ## Fields of a word -/

/-- A bitwise AND, taken apart at bit `k`. -/
theorem and_eq_split (a m k : Nat) :
    a &&& m = 2 ^ k * (a / 2 ^ k &&& m / 2 ^ k) + (a % 2 ^ k &&& m % 2 ^ k) := by
  rw [← Nat.and_div_two_pow, ← Nat.and_mod_two_pow, Nat.div_add_mod]

/-- The mask of the filter rows drops FSIZE and keeps the rest. -/
theorem toNat_and_filterMask (v : Word) :
    (v &&& 0xFFFF00FF#32).toNat = 65536 * (v.toNat / 65536) + v.toNat % 256 := by
  have hhigh : v.toNat / 65536 &&& 65535 = v.toNat / 65536 % 65536 :=
    Nat.and_two_pow_sub_one_eq_mod _ 16
  have hlow : v.toNat % 65536 &&& 255 = v.toNat % 65536 % 256 :=
    Nat.and_two_pow_sub_one_eq_mod _ 8
  have hsplit := and_eq_split v.toNat 0xFFFF00FF 16
  norm_num [hhigh, hlow] at hsplit
  rw [BitVec.toNat_and, BitVec.toNat_ofNat]
  norm_num [hsplit]
  omega

theorem wordFsize_toNat (v : Word) : (wordFsize v).toNat = v.toNat / 256 % 256 := by
  simp [wordFsize, Nat.shiftRight_eq_div_pow]

theorem cmdWord_toNat (op : BitVec 2) (f : BitVec 8) :
    (cmdWord op f).toNat = 256 * f.toNat + op.toNat := by
  have hf := f.isLt
  have hop : op.toNat < 2 ^ 8 := by omega
  have hor := Nat.two_pow_add_eq_or_of_lt hop f.toNat
  simp only [cmdWord, BitVec.toNat_append, Nat.shiftLeft_eq]
  norm_num at hor ⊢
  rw [mul_assoc, mul_comm f.toNat]
  exact hor.symm

/-- A word passes a filter row's mask exactly when it is that row's command word with its own
FSIZE. -/
theorem and_filterMask_eq_iff (v : Word) (op : BitVec 2) :
    v &&& 0xFFFF00FF#32 = op.setWidth 32 ↔ v = cmdWord op (wordFsize v) := by
  have hop := op.isLt
  rw [← BitVec.toNat_inj, ← BitVec.toNat_inj, toNat_and_filterMask, cmdWord_toNat, wordFsize_toNat,
    BitVec.toNat_setWidth]
  omega

theorem wordFsize_cmdWord (op : BitVec 2) (f : BitVec 8) : wordFsize (cmdWord op f) = f := by
  have hop := op.isLt
  rw [← BitVec.toNat_inj, wordFsize_toNat, cmdWord_toNat]
  omega

theorem cmdWord_and_filterMask (op : BitVec 2) (f : BitVec 8) :
    cmdWord op f &&& 0xFFFF00FF#32 = op.setWidth 32 := by
  rw [and_filterMask_eq_iff, wordFsize_cmdWord]

/-! ## The rows of a legal transaction -/

theorem offsetAligned_iff (o : BitVec 12) : offsetAligned o = true ↔ o.toNat % 4 = 0 := by
  simp [offsetAligned]

theorem offsetReserved_iff (o : BitVec 12) :
    offsetReserved o = true ↔ 0x024 ≤ o.toNat ∧ o.toNat % 4 = 0 := by
  simp [offsetReserved, offsetAligned_iff]

theorem aligned_of_reserved {o : BitVec 12} (ho : offsetReserved o = true) : o.toNat % 4 = 0 :=
  ((offsetReserved_iff o).mp ho).2

theorem decode_of_legal {t : Transaction} (hsize : t.size = 4) (ho : t.offset.toNat % 4 = 0) :
    decode t = if t.write then decodeWrite t.offset t.wdata else decodeRead t.offset := by
  simp [decode, hsize, (offsetAligned_iff t.offset).mpr ho]

theorem decode_readAt {o : BitVec 12} (ho : o.toNat % 4 = 0) : decode (readAt o) = decodeRead o :=
  decode_of_legal rfl ho

theorem decode_writeAt {o : BitVec 12} (v : Word) (ho : o.toNat % 4 = 0) :
    decode (writeAt o v) = decodeWrite o v :=
  decode_of_legal rfl ho

/-- An aligned offset is of the reserved space or that of a named register. -/
theorem offset_cases {o : BitVec 12} (ho : o.toNat % 4 = 0) :
    offsetReserved o = true ∨ o = offId ∨ o = offCtrl ∨ o = offStatus ∨ o = offCmd ∨ o = offWidth ∨
      o = offHeight ∨ o = offSrcBase ∨ o = offDstBase ∨ o = offLambda := by
  simp only [offsetReserved_iff, ← BitVec.toNat_inj, offId, offCtrl, offStatus, offCmd, offWidth,
    offHeight, offSrcBase, offDstBase, offLambda, BitVec.toNat_ofNat]
  omega

/-- A reserved offset is none of the named registers'. -/
theorem ne_of_offsetReserved {o : BitVec 12} (ho : offsetReserved o = true) {r : BitVec 12}
    (hr : r.toNat < 0x024) : o ≠ r := by
  rintro rfl
  have := (offsetReserved_iff o).mp ho
  omega

theorem decodeRead_reserved {o : BitVec 12} (ho : offsetReserved o = true) :
    decodeRead o = .rdRsvd o := by
  have hne {r : BitVec 12} (hr : r.toNat < 0x024) : o ≠ r := ne_of_offsetReserved ho hr
  simp [decodeRead, hne, offId, offCtrl, offStatus, offCmd, offWidth, offHeight, offSrcBase,
    offDstBase, offLambda]

theorem decodeWrite_reserved {o : BitVec 12} (v : Word) (ho : offsetReserved o = true) :
    decodeWrite o v = .wrRsvd o v := by
  have hne {r : BitVec 12} (hr : r.toNat < 0x024) : o ≠ r := ne_of_offsetReserved ho hr
  simp [decodeWrite, hne, offId, offCtrl, offStatus, offCmd, offWidth, offHeight, offSrcBase,
    offDstBase, offLambda]

/-! ## Command words -/

theorem cmdWord_ne_zero {op : BitVec 2} (f : BitVec 8) (hop : op.toNat ≠ 0) : cmdWord op f ≠ 0 := by
  intro h
  have h := congrArg BitVec.toNat h
  rw [cmdWord_toNat] at h
  simp [hop] at h

theorem decodeCmd_boxWord (f : BitVec 8) : decodeCmd (boxWord f) = .cmdBox f := by
  have hmask : boxWord f &&& 0xFFFF00FF#32 = 1#32 := cmdWord_and_filterMask 0b01#2 f
  have hne : boxWord f ≠ 0 := cmdWord_ne_zero f (by decide)
  rw [decodeCmd, if_neg hne, if_pos hmask, boxWord, wordFsize_cmdWord]

theorem decodeCmd_sharpenWord (f : BitVec 8) : decodeCmd (sharpenWord f) = .cmdSharpen f := by
  have hmask : sharpenWord f &&& 0xFFFF00FF#32 = 2#32 := cmdWord_and_filterMask 0b10#2 f
  have hne : sharpenWord f ≠ 0 := cmdWord_ne_zero f (by decide)
  rw [decodeCmd, if_neg hne, hmask, if_neg (by decide), if_pos rfl, sharpenWord, wordFsize_cmdWord]

theorem isFilterWord_eq_false_iff (v : Word) :
    isFilterWord v = false ↔
      v ≠ 0 ∧ v &&& 0xFFFF00FF#32 ≠ 1#32 ∧ v &&& 0xFFFF00FF#32 ≠ 2#32 := by
  simp [isFilterWord, and_assoc]

/-- Everything a write to CMD can decode to. -/
theorem decodeCmd_cases (v : Word) :
    (v = iirWord ∧ decodeCmd v = .cmdIir) ∨
      (v = boxWord (wordFsize v) ∧ decodeCmd v = .cmdBox (wordFsize v)) ∨
      (v = sharpenWord (wordFsize v) ∧ decodeCmd v = .cmdSharpen (wordFsize v)) ∨
      (isFilterWord v = false ∧ decodeCmd v = .wrCmd v) := by
  unfold decodeCmd
  split
  · next hiir => exact .inl ⟨hiir, rfl⟩
  · next hiir =>
    split
    · next hbox => exact .inr (.inl ⟨(and_filterMask_eq_iff v 0b01#2).mp hbox, rfl⟩)
    · next hbox =>
      split
      · next hsharpen =>
        exact .inr (.inr (.inl ⟨(and_filterMask_eq_iff v 0b10#2).mp hsharpen, rfl⟩))
      · next hsharpen =>
        exact .inr (.inr (.inr ⟨(isFilterWord_eq_false_iff v).mpr ⟨hiir, hbox, hsharpen⟩, rfl⟩))

theorem decodeCmd_other {v : Word} (hv : isFilterWord v = false) : decodeCmd v = .wrCmd v := by
  obtain ⟨hiir, hbox, hsharpen⟩ := (isFilterWord_eq_false_iff v).mp hv
  rw [decodeCmd, if_neg hiir, if_neg hbox, if_neg hsharpen]

theorem decodeWrite_offCmd (v : Word) : decodeWrite offCmd v = decodeCmd v := by
  simp [decodeWrite, offId, offCtrl, offStatus, offCmd]

theorem decode_write_cmd (v : Word) : decode (writeAt offCmd v) = decodeCmd v :=
  (decode_writeAt v (by decide)).trans (decodeWrite_offCmd v)

/-! ## The two round trips -/

/-- An illegal access decodes to itself: a read's form holds no WDATA. -/
theorem decode_encode_illegalAccess {w : Bool} {o : BitVec 12} {n : Nat} {v : Word}
    (hwf : (Instr.illegalAccess w o n v).wf = true) :
    decode (encode (.illegalAccess w o n v)) = .illegalAccess w o n v := by
  simp only [Instr.wf, Bool.and_eq_true, Bool.or_eq_true, bne_iff_ne, Bool.not_eq_true',
    beq_iff_eq] at hwf
  obtain ⟨hill, hdata⟩ := hwf
  cases w <;> simp_all [encode, decode]

/-- Settles O1: the named registers by their offsets, the filter rows by their mask, the reserved
space and the illegal accesses by what their operands are allowed to be. -/
theorem decodeOfEncodeIsTheInstruction : Obligations.DecodeOfEncodeIsTheInstruction := by
  intro i hwf
  cases i
  case cmdIir => rfl
  case cmdBox f => exact (decode_write_cmd _).trans (decodeCmd_boxWord f)
  case cmdSharpen f => exact (decode_write_cmd _).trans (decodeCmd_sharpenWord f)
  case wrCmd v => exact (decode_write_cmd v).trans (decodeCmd_other (by simpa [Instr.wf] using hwf))
  case rdRsvd o => exact (decode_readAt (aligned_of_reserved hwf)).trans (decodeRead_reserved hwf)
  case wrRsvd o v =>
    exact (decode_writeAt v (aligned_of_reserved hwf)).trans (decodeWrite_reserved v hwf)
  case illegalAccess w o n v => exact decode_encode_illegalAccess hwf
  all_goals
    simp [encode, decode_readAt, decode_writeAt, decodeRead, decodeWrite, offId, offCtrl, offStatus,
      offCmd, offWidth, offHeight, offSrcBase, offDstBase, offLambda]

theorem encode_decodeRead (o : BitVec 12) : encode (decodeRead o) = readAt o := by
  unfold decodeRead
  repeat' split
  all_goals subst_vars; rfl

theorem encode_decodeCmd (v : Word) : encode (decodeCmd v) = writeAt offCmd v := by
  rcases decodeCmd_cases v with ⟨hv, hd⟩ | ⟨hv, hd⟩ | ⟨hv, hd⟩ | ⟨-, hd⟩ <;> rw [hd]
  case inl => exact congrArg (writeAt offCmd) hv.symm
  case inr.inl => exact congrArg (writeAt offCmd) hv.symm
  case inr.inr.inl => exact congrArg (writeAt offCmd) hv.symm
  case inr.inr.inr => rfl

theorem encode_decodeWrite (o : BitVec 12) (v : Word) : encode (decodeWrite o v) = writeAt o v := by
  by_cases hcmd : o = offCmd
  · rw [hcmd, decodeWrite_offCmd, encode_decodeCmd]
  · unfold decodeWrite
    repeat' split
    all_goals subst_vars; rfl

/-- Encoding a decoded transaction drops nothing but the WDATA of a read. -/
theorem encode_decode (t : Transaction) :
    encode (decode t) = { t with wdata := if t.write then t.wdata else 0 } := by
  obtain ⟨w, o, n, v⟩ := t
  by_cases hill : n ≠ 4 ∨ offsetAligned o = false
  · simp [decode, hill, encode]
  · obtain ⟨rfl, ho⟩ : n = 4 ∧ offsetAligned o = true := by simpa using hill
    rw [decode_of_legal rfl ((offsetAligned_iff o).mp ho)]
    cases w
    · exact encode_decodeRead o
    · exact encode_decodeWrite o v

/-- Settles O2: a read in the model's form has no WDATA to drop. -/
theorem encodeOfDecodeIsTheTransaction : Obligations.EncodeOfDecodeIsTheTransaction := by
  rintro ⟨w, o, n, v⟩ hread
  rw [encode_decode]
  cases w
  · obtain rfl : v = 0 := hread rfl
    rfl
  · rfl

/-! ## Decoded operations are legal -/

theorem wf_decodeRead {o : BitVec 12} (ho : o.toNat % 4 = 0) : (decodeRead o).wf = true := by
  rcases offset_cases ho with
    hrsvd | rfl | rfl | rfl | rfl | rfl | rfl | rfl | rfl | rfl
  case inl => rwa [decodeRead_reserved hrsvd]
  all_goals rfl

theorem wf_decodeCmd (v : Word) : (decodeCmd v).wf = true := by
  rcases decodeCmd_cases v with ⟨-, hd⟩ | ⟨-, hd⟩ | ⟨-, hd⟩ | ⟨hv, hd⟩ <;> rw [hd]
  case inr.inr.inr => simp [Instr.wf, hv]
  all_goals rfl

theorem wf_decodeWrite {o : BitVec 12} (v : Word) (ho : o.toNat % 4 = 0) :
    (decodeWrite o v).wf = true := by
  rcases offset_cases ho with
    hrsvd | rfl | rfl | rfl | hcmd | rfl | rfl | rfl | rfl | rfl
  case inl => rwa [decodeWrite_reserved v hrsvd]
  case inr.inr.inr.inr.inl =>
    rw [hcmd, decodeWrite_offCmd]
    exact wf_decodeCmd v
  all_goals rfl

/-- Settles O3: a legal transaction by its row, an illegal one by the test that found it. -/
theorem everyTransactionNamesALegalOperation :
    Obligations.EveryTransactionNamesALegalOperation := by
  rintro ⟨w, o, n, v⟩
  by_cases hill : n ≠ 4 ∨ offsetAligned o = false
  · rw [decode, if_pos hill]
    cases w <;> simpa [Instr.wf] using hill
  · obtain ⟨rfl, ho⟩ : n = 4 ∧ offsetAligned o = true := by simpa using hill
    rw [offsetAligned_iff] at ho
    rw [decode_of_legal rfl ho]
    cases w
    · exact wf_decodeRead ho
    · exact wf_decodeWrite v ho

/-! ## The numbering of the opcode table -/

theorem headerOf_toNat (t : Transaction) :
    (headerOf t).toNat = 4096 * t.write.toNat + t.offset.toNat := by
  rw [headerOf, BitVec.toNat_cons', Nat.shiftLeft_eq, mul_comm]

/-- The bits of a legal transaction are those of that transaction alone. -/
theorem transactionOfBits_numberOf {t : Transaction} (hsize : t.size = 4)
    (hread : t.write = false → t.wdata = 0) :
    transactionOfBits (if t.write then 48 else 16) (numberOf t) = .ok t := by
  obtain ⟨w, o, n, v⟩ := t
  obtain rfl : n = 4 := hsize
  have ho := o.isLt
  have hv := v.isLt
  cases w
  · obtain rfl : v = 0 := hread rfl
    have hlt : o.toNat < 8192 := by omega
    have hzero : o.toNat / 4096 ≠ 1 := by omega
    simp [transactionOfBits, numberOf, headerOf_toNat, hlt, hzero]
  · have hlt : (4096 + o.toNat) * 4294967296 + v.toNat < 35184372088832 := by omega
    have hone : ((4096 + o.toNat) * 4294967296 + v.toNat) / 17592186044416 = 1 := by omega
    have hdiv : ((4096 + o.toNat) * 4294967296 + v.toNat) / 4294967296 = 4096 + o.toNat := by omega
    have hoff : BitVec.ofNat 12 (4096 + o.toNat) = o := BitVec.eq_of_toNat_eq (by simpa using ho)
    have hdata : BitVec.ofNat 32 ((4096 + o.toNat) * 4294967296 + v.toNat) = v :=
      BitVec.eq_of_toNat_eq (by simpa using hv)
    simp [transactionOfBits, numberOf, headerOf_toNat, hlt, hone, hdiv, hoff, hdata]

theorem encode_write (i : Instr) : (encode i).write = i.isWrite := by
  cases i <;> rfl

/-- A legal read carries no WDATA: it is what it decodes to, and decoding drops a read's WDATA. -/
theorem encode_read_wdata {i : Instr} (hwf : i.wf = true) (hread : (encode i).write = false) :
    (encode i).wdata = 0 := by
  have h := encode_decode (encode i)
  rw [decodeOfEncodeIsTheInstruction i hwf] at h
  simpa [hread] using congrArg Transaction.wdata h

theorem decodeTableWord_eq_some_iff (nbits w : Nat) (i : Instr) :
    decodeTableWord nbits w = some i ↔ ∃ t, transactionOfBits nbits w = .ok t ∧ decode t = i := by
  unfold decodeTableWord decodeBits
  cases transactionOfBits nbits w <;> simp

/-- Settles O7: the numbered word gives the operation's transaction back, which decodes to it. -/
theorem tableWordDecodes : Obligations.TableWordDecodes := by
  intro i hwf hsize
  refine (decodeTableWord_eq_some_iff ..).mpr ⟨encode i, ?_, decodeOfEncodeIsTheInstruction i hwf⟩
  rw [tableBits, ← encode_write]
  exact transactionOfBits_numberOf hsize (encode_read_wdata hwf)

/-- Settles O6 by decoding each word. -/
theorem writtenOutWordsDecode : Obligations.WrittenOutWordsDecode := by
  unfold Obligations.WrittenOutWordsDecode
  decide

end Sys2Proof
end

section
/-! SUPPORT. The opcode table and the decoder choose the same row (spec/30_encoding.md R99). -/

namespace Sys2Proof

/-! ## When a row's pattern fits -/

/-- The bits of a row's match or mask that stand over the header. -/
def Row.headerBits (r : Row) (n : Nat) : Nat := if r.isTC then n / 2 ^ 32 else n

/-- The bits of a row's match or mask that stand over WDATA. -/
def Row.dataBits (r : Row) (n : Nat) : Nat := if r.isTC then n % 2 ^ 32 else 0

theorem and_eq_iff_split (a m b k : Nat) :
    a &&& m = b ↔ a / 2 ^ k &&& m / 2 ^ k = b / 2 ^ k ∧ a % 2 ^ k &&& m % 2 ^ k = b % 2 ^ k := by
  rw [← Nat.and_div_two_pow, ← Nat.and_mod_two_pow]
  constructor
  · rintro rfl
    exact ⟨rfl, rfl⟩
  · rintro ⟨hdiv, hmod⟩
    rw [← Nat.div_add_mod (a &&& m) (2 ^ k), hdiv, hmod, Nat.div_add_mod]

theorem numberOf_write {t : Transaction} (hw : t.write = true) :
    numberOf t / 2 ^ 32 = (headerOf t).toNat ∧ numberOf t % 2 ^ 32 = t.wdata.toNat := by
  have hdata := t.wdata.isLt
  simp only [numberOf, hw, if_true]
  omega

/-- A row fits when its format is the transaction's and its header and data patterns fit. -/
theorem Row.fits_iff (r : Row) (t : Transaction) :
    r.fits t = true ↔
      r.isTC = t.write ∧ (headerOf t).toNat &&& r.headerBits r.mask = r.headerBits r.mtch ∧
        t.wdata.toNat &&& r.dataBits r.mask = r.dataBits r.mtch := by
  simp only [Row.fits, Bool.and_eq_true, beq_iff_eq]
  refine and_congr_right fun hform => ?_
  cases hw : t.write <;> rw [hw] at hform
  · simp [Row.headerBits, Row.dataBits, hform, numberOf, hw]
  · obtain ⟨hheader, hdata⟩ := numberOf_write hw
    rw [and_eq_iff_split _ _ _ 32, hheader, hdata]
    simp only [Row.headerBits, Row.dataBits, hform, if_true]

/-! ## The first row that fits -/

/-- `r` is the row that the table gives `t`: it fits, and any other row that fits has a higher
priority number. -/
def IsFirstRow (r : Row) (t : Transaction) : Prop :=
  r ∈ opcodeTable ∧ r.fits t = true ∧
    ∀ r' ∈ opcodeTable, r'.fits t = true → r' = r ∨ r.priority < r'.priority

/-- Two rows that fit one transaction agree wherever both look. -/
theorem Row.agree_of_fits {r r' : Row} {t : Transaction} (h : r.fits t = true)
    (h' : r'.fits t = true) : r.isTC = r'.isTC ∧ r.mtch &&& r'.mask = r'.mtch &&& r.mask := by
  simp only [Row.fits, Bool.and_eq_true, beq_iff_eq] at h h'
  obtain ⟨hform, hmtch⟩ := h
  obtain ⟨hform', hmtch'⟩ := h'
  refine ⟨hform.trans hform'.symm, ?_⟩
  rw [← hmtch, ← hmtch', Nat.and_right_comm]

/-- Wherever both look, a row of priority 1 agrees only with itself and with rows of a higher
priority number. -/
theorem opcodeTable_priority_one : ∀ r ∈ opcodeTable, r.priority = 1 → ∀ r' ∈ opcodeTable,
    r.isTC = r'.isTC → r.mtch &&& r'.mask = r'.mtch &&& r.mask →
      r' = r ∨ r.priority < r'.priority := by
  decide

theorem isFirstRow_of_priority_one {r : Row} {t : Transaction} (hr : r ∈ opcodeTable)
    (hp : r.priority = 1) (hfits : r.fits t = true) : IsFirstRow r t := by
  refine ⟨hr, hfits, fun r' hr' hfits' => ?_⟩
  obtain ⟨hform, hagree⟩ := Row.agree_of_fits hfits hfits'
  exact opcodeTable_priority_one r hr hp r' hr' hform hagree

/-! ## The row of each offset -/

/-- The offsets of the named registers. -/
def namedOffsets : List (BitVec 12) :=
  [offId, offCtrl, offStatus, offCmd, offWidth, offHeight, offSrcBase, offDstBase, offLambda]

/-- Each named register has a row for reads and, but for CMD, one for writes, of priority 1, that
pins the header and leaves WDATA free. -/
theorem opcodeTable_named : ∀ o ∈ namedOffsets, ∀ w : Bool, ¬(w = true ∧ o = offCmd) →
    ∃ r ∈ opcodeTable, r.priority = 1 ∧ r.isTC = w ∧ r.headerBits r.mask = 0x1FFF ∧
      r.headerBits r.mtch = 4096 * w.toNat + o.toNat ∧ r.dataBits r.mask = 0 ∧
      r.dataBits r.mtch = 0 ∧ r.mnemonic = (decode ⟨w, o, 4, 0⟩).mnemonic :=
  List.forall_iff_forall_mem.mp (by decide)

/-- But for a write to CMD, WDATA does not choose the row. -/
theorem mnemonic_decode_congr {w : Bool} {o : BitVec 12} (v : Word) (ho : o.toNat % 4 = 0)
    (hcmd : ¬(w = true ∧ o = offCmd)) :
    (decode ⟨w, o, 4, v⟩).mnemonic = (decode ⟨w, o, 4, 0⟩).mnemonic := by
  rw [decode_of_legal rfl ho, decode_of_legal rfl ho]
  cases w
  · rfl
  · have hne : o ≠ offCmd := fun h => hcmd ⟨rfl, h⟩
    simp only [decodeWrite, if_neg hne, if_true]
    repeat' split
    all_goals rfl

theorem headerOf_and_full (t : Transaction) :
    (headerOf t).toNat &&& 0x1FFF = (headerOf t).toNat := by
  have h : (headerOf t).toNat < 2 ^ 13 := (headerOf t).isLt
  exact (Nat.and_two_pow_sub_one_eq_mod _ 13).trans (Nat.mod_eq_of_lt h)

theorem exists_isFirstRow_named {w : Bool} {o : BitVec 12} (v : Word) (ho : o.toNat % 4 = 0)
    (hnamed : o ∈ namedOffsets) (hcmd : ¬(w = true ∧ o = offCmd)) :
    ∃ r, IsFirstRow r ⟨w, o, 4, v⟩ ∧ r.mnemonic = (decode ⟨w, o, 4, v⟩).mnemonic := by
  obtain ⟨r, hr, hp, hform, hmask, hmtch, hdmask, hdmtch, hname⟩ :=
    opcodeTable_named o hnamed w hcmd
  refine ⟨r, isFirstRow_of_priority_one hr hp ((Row.fits_iff ..).mpr ⟨hform, ?_, ?_⟩), ?_⟩
  · rw [hmask, hmtch, headerOf_and_full, headerOf_toNat]
  · rw [hdmask, hdmtch, Nat.and_zero]
  · rw [hname, mnemonic_decode_congr v ho hcmd]

/-- The row of the reserved space, for reads and for writes. -/
def reservedRow (w : Bool) : Row :=
  if w then ⟨"WR.RSVD", true, 0x100000000000, 0x100300000000, 3⟩
  else ⟨"RD.RSVD", false, 0x0, 0x1003, 3⟩

theorem reservedRow_bits : ∀ w : Bool, reservedRow w ∈ opcodeTable ∧ (reservedRow w).isTC = w ∧
    (reservedRow w).headerBits (reservedRow w).mask = 0x1003 ∧
    (reservedRow w).headerBits (reservedRow w).mtch = 4096 * w.toNat ∧
    (reservedRow w).dataBits (reservedRow w).mask = 0 ∧
    (reservedRow w).dataBits (reservedRow w).mtch = 0 := by
  decide

/-- Every other row pins the header to a named register's offset. -/
theorem opcodeTable_not_reserved : ∀ r ∈ opcodeTable, r = reservedRow r.isTC ∨
    r.headerBits r.mask = 0x1FFF ∧ r.headerBits r.mtch < 4096 * r.isTC.toNat + 0x024 := by
  decide

/-- The pattern of the reserved space keeps WRITE and OFFSET[1:0]. -/
theorem headerOf_and_reserved {t : Transaction} (ho : t.offset.toNat % 4 = 0) :
    (headerOf t).toNat &&& 0x1003 = 4096 * t.write.toNat := by
  have hlt := t.offset.isLt
  rw [headerOf_toNat, and_eq_iff_split _ _ _ 12]
  have hdiv : (4096 * t.write.toNat + t.offset.toNat) / 2 ^ 12 = t.write.toNat := by omega
  have hmod : (4096 * t.write.toNat + t.offset.toNat) % 2 ^ 12 = t.offset.toNat := by omega
  have hlow : t.offset.toNat &&& 3 = t.offset.toNat % 4 := Nat.and_two_pow_sub_one_eq_mod _ 2
  rw [hdiv, hmod]
  cases t.write <;> simp [hlow, ho]

theorem isFirstRow_reserved {t : Transaction} (ho : offsetReserved t.offset = true) :
    IsFirstRow (reservedRow t.write) t := by
  obtain ⟨hmin, halign⟩ := (offsetReserved_iff _).mp ho
  obtain ⟨hmem, hform, hmask, hmtch, hdmask, hdmtch⟩ := reservedRow_bits t.write
  refine ⟨hmem, (Row.fits_iff ..).mpr ⟨hform, ?_, ?_⟩, fun r hr hfits => .inl ?_⟩
  · rw [hmask, hmtch, headerOf_and_reserved halign]
  · rw [hdmask, hdmtch, Nat.and_zero]
  · obtain ⟨hform, hheader, -⟩ := (Row.fits_iff ..).mp hfits
    rcases opcodeTable_not_reserved r hr with hr | ⟨hmask, hlt⟩
    · rw [hr, hform]
    · rw [hmask, headerOf_and_full, headerOf_toNat] at hheader
      rw [hform] at hlt
      omega

/-! ## The rows of a write to CMD -/

/-- The row of every command word that is no filter's. -/
def wrCmdRow : Row := ⟨"WR.CMD", true, 0x100C00000000, 0x1FFF00000000, 2⟩

/-- A row that fits the header of a write to CMD is WR.CMD's, one of a higher priority number, or a
filter's, whose data pattern is that of `isFilterWord`. -/
theorem opcodeTable_cmd : ∀ r ∈ opcodeTable, r.isTC = true →
    0x100C &&& r.headerBits r.mask = r.headerBits r.mtch → r = wrCmdRow ∨
      wrCmdRow.priority < r.priority ∨
      r.dataBits r.mask = 0xFFFFFFFF ∧ r.dataBits r.mtch = 0 ∨
      r.dataBits r.mask = 0xFFFF00FF ∧ (r.dataBits r.mtch = 1 ∨ r.dataBits r.mtch = 2) := by
  decide

theorem headerOf_write_cmd (v : Word) : (headerOf (writeAt offCmd v)).toNat = 0x100C :=
  headerOf_toNat _

theorem isFirstRow_wrCmd {v : Word} (hv : isFilterWord v = false) :
    IsFirstRow wrCmdRow (writeAt offCmd v) := by
  obtain ⟨hiir, hbox, hsharpen⟩ := (isFilterWord_eq_false_iff v).mp hv
  refine ⟨by decide, (Row.fits_iff ..).mpr ⟨rfl, ?_, Nat.and_zero _⟩, fun r hr hfits => ?_⟩
  · rw [headerOf_write_cmd]
    decide
  obtain ⟨hform, hheader, hdata⟩ := (Row.fits_iff ..).mp hfits
  change v.toNat &&& r.dataBits r.mask = r.dataBits r.mtch at hdata
  rw [headerOf_write_cmd] at hheader
  rcases opcodeTable_cmd r hr hform hheader with hr | hp | ⟨hmask, hmtch⟩ | ⟨hmask, hmtch | hmtch⟩
  · exact .inl hr
  · exact .inr hp
  · have hzero : v &&& 0xFFFFFFFF#32 = 0 :=
      BitVec.eq_of_toNat_eq (by simpa [hmask, hmtch] using hdata)
    exact absurd ((BitVec.and_allOnes (x := v)).symm.trans hzero) hiir
  · exact absurd (BitVec.eq_of_toNat_eq (by simpa [hmask, hmtch] using hdata)) hbox
  · exact absurd (BitVec.eq_of_toNat_eq (by simpa [hmask, hmtch] using hdata)) hsharpen

/-- The row of a command word with OP = `op` and any FSIZE. -/
def filterRow (mnemonic : String) (op : BitVec 2) : Row :=
  ⟨mnemonic, true, 0x100C00000000 + op.toNat, 0x1FFFFFFF00FF, 1⟩

theorem filterRow_bits (m : String) (op : BitVec 2) :
    (filterRow m op).headerBits (filterRow m op).mask = 0x1FFF ∧
      (filterRow m op).headerBits (filterRow m op).mtch = 0x100C ∧
      (filterRow m op).dataBits (filterRow m op).mask = 0xFFFF00FF ∧
      (filterRow m op).dataBits (filterRow m op).mtch = op.toNat := by
  have hop := op.isLt
  simp only [Row.headerBits, Row.dataBits, filterRow, if_true]
  omega

theorem isFirstRow_filter {m : String} {op : BitVec 2} {v : Word}
    (hr : filterRow m op ∈ opcodeTable) (hv : v = cmdWord op (wordFsize v)) :
    IsFirstRow (filterRow m op) (writeAt offCmd v) := by
  obtain ⟨hmask, hmtch, hdmask, hdmtch⟩ := filterRow_bits m op
  refine isFirstRow_of_priority_one hr rfl ((Row.fits_iff ..).mpr ⟨rfl, ?_, ?_⟩)
  · rw [hmask, hmtch, headerOf_and_full, headerOf_write_cmd]
  · have hdata := congrArg BitVec.toNat ((and_filterMask_eq_iff v op).mpr hv)
    rw [BitVec.toNat_and, BitVec.toNat_setWidth_of_le (by decide)] at hdata
    rw [hdmask, hdmtch]
    exact hdata

theorem exists_isFirstRow_cmd (v : Word) :
    ∃ r, IsFirstRow r (writeAt offCmd v) ∧
      r.mnemonic = (decode (writeAt offCmd v)).mnemonic := by
  rw [decode_write_cmd]
  rcases decodeCmd_cases v with ⟨hv, hd⟩ | ⟨hv, hd⟩ | ⟨hv, hd⟩ | ⟨hv, hd⟩ <;> rw [hd]
  case inl =>
    subst hv
    exact ⟨⟨"CMD.IIR", true, 0x100C00000000, 0x1FFFFFFFFFFF, 1⟩,
      isFirstRow_of_priority_one (by decide) rfl (by decide), rfl⟩
  case inr.inl => exact ⟨filterRow "CMD.BOX" 0b01#2, isFirstRow_filter (by decide) hv, rfl⟩
  case inr.inr.inl =>
    exact ⟨filterRow "CMD.SHARPEN" 0b10#2, isFirstRow_filter (by decide) hv, rfl⟩
  case inr.inr.inr => exact ⟨wrCmdRow, isFirstRow_wrCmd hv, rfl⟩

/-! ## The decoder's row -/

theorem mnemonic_decode_reserved {t : Transaction} (hsize : t.size = 4)
    (ho : offsetReserved t.offset = true) :
    (decode t).mnemonic = (reservedRow t.write).mnemonic := by
  rw [decode_of_legal hsize (aligned_of_reserved ho), decodeRead_reserved ho,
    decodeWrite_reserved _ ho]
  cases t.write <;> rfl

/-- Settles O4: a reserved offset, a write to CMD, or a named register whose row only the header
chooses. -/
theorem decoderFollowsOpcodeTable : Obligations.DecoderFollowsOpcodeTable := by
  rintro ⟨w, o, n, v⟩ hsize ho
  obtain rfl : n = 4 := hsize
  obtain ⟨r, ⟨hr, hfits, hfirst⟩, hname⟩ :
      ∃ r, IsFirstRow r ⟨w, o, 4, v⟩ ∧ r.mnemonic = (decode ⟨w, o, 4, v⟩).mnemonic := by
    by_cases hrsvd : offsetReserved o = true
    · exact ⟨reservedRow w, isFirstRow_reserved (t := ⟨w, o, 4, v⟩) hrsvd,
        (mnemonic_decode_reserved (t := ⟨w, o, 4, v⟩) rfl hrsvd).symm⟩
    · by_cases hcmd : w = true ∧ o = offCmd
      · obtain ⟨rfl, rfl⟩ := hcmd
        exact exists_isFirstRow_cmd v
      · have hnamed : o ∈ namedOffsets := by
          simpa [namedOffsets] using (offset_cases ho).resolve_left hrsvd
        exact exists_isFirstRow_named v ho hnamed hcmd
  exact ⟨r, hr, hfits, hname, hfirst⟩

end Sys2Proof
end

section
/-! SUPPORT. The block's transactions on the host's bus: what a step runs, the answer of an illegal
access, waits, and the assembler's pseudo-instructions (spec/30_encoding.md R91, R92, R100, R104,
R105). -/

namespace Sys2Proof.Machine

/-! ## Illegal accesses -/

/-- An illegal access keeps the transaction's SIZE and OFFSET, and its row allows no legal ones. -/
theorem illegal_of_decode {t : Transaction} {w : Bool} {o : BitVec 12} {n : Nat} {v : Word}
    (h : decode t = .illegalAccess w o n v) : t.size ≠ 4 ∨ t.offset.toNat % 4 ≠ 0 := by
  have henc := encode_decode t
  have hwf := everyTransactionNamesALegalOperation t
  rw [h] at henc hwf
  obtain rfl : o = t.offset := congrArg Transaction.offset henc
  obtain rfl : n = t.size := congrArg Transaction.size henc
  simp only [Instr.wf, offsetAligned, Bool.and_eq_true, Bool.or_eq_true, bne_iff_ne,
    Bool.not_eq_true', beq_eq_false_iff_ne] at hwf
  obtain ⟨hill, -⟩ := hwf
  exact hill

theorem decode_illegal_iff (t : Transaction) :
    (∃ w o n v, decode t = .illegalAccess w o n v) ↔ t.size ≠ 4 ∨ t.offset.toNat % 4 ≠ 0 :=
  ⟨fun ⟨_, _, _, _, h⟩ => illegal_of_decode h, fun h => ⟨_, _, _, decode_illegal h⟩⟩

/-- Only an illegal access is answered with a bus error. -/
theorem exec_busError {i : Instr} {s u : State} (h : exec i s = .next u)
    (hans : u.answer = .busError) : ∃ w o n v, i = .illegalAccess w o n v := by
  cases i
  case illegalAccess w o n v => exact ⟨w, o, n, v, rfl⟩
  all_goals cases h; cases hans

/-- Settles O5: a bus error comes from the operation illegalAccess, and that from SIZE or OFFSET. -/
theorem illegalExactlyBySizeOrAlignment : Obligations.IllegalExactlyBySizeOrAlignment := by
  intro t
  refine ⟨decode_illegal_iff t, fun s => ?_⟩
  obtain ⟨u, hu⟩ := exec_next (decode t) s
  have heffect (hill : t.size ≠ 4 ∨ t.offset.toNat % 4 ≠ 0) :
      u = { s with answer := .busError } := by
    obtain ⟨v, hdec⟩ := decode_illegal hill
    rw [hdec, exec_illegalAccess] at hu
    cases hu
    rfl
  refine ⟨u, hu, ⟨fun hans => ?_, fun hill => by rw [heffect hill]⟩, heffect⟩
  exact (decode_illegal_iff t).mp (exec_busError hu hans)

/-! ## What a step runs -/

theorem step_access {s : State} {a : BusAccess} {rest : List Input}
    (hin : s.inputs = .access a :: rest) : step s = runAccess a { s with inputs := rest } := by
  simp only [step, hin]

/-- Settles O9: the window gives the transaction, the decoder its operation. -/
theorem stepRunsTheDecodedInstruction : Obligations.StepRunsTheDecodedInstruction := by
  intro s rest
  refine ⟨fun a t hin hsel => ?_, fun i hwf hin => ?_⟩
  · rw [step_access hin]
    simp only [runAccess, hsel]
  · rw [step_busAccessOf hin, decodeOfEncodeIsTheInstruction i hwf]

/-- Settles O10: the placed word is the first pending move, and the step takes it off again. -/
theorem placedWordRunsNext : Obligations.PlacedWordRunsNext := by
  intro s nbits w i h
  obtain ⟨t, hbits, rfl⟩ := (decodeTableWord_eq_some_iff ..).mp h
  have hplaced : s.withFetchWord nbits w =
      { s with inputs := .access (busAccessOf s.platform t) :: s.inputs } := by
    simp only [State.withFetchWord, accessOfBits, hbits]
  rw [hplaced]
  exact step_busAccessOf rfl

/-! ## The register window -/

theorem selectWindow_eq_none {p : Platform} {a : BusAccess}
    (h : a.addr < p.regBase ∨ p.regBase + 4096 ≤ a.addr) : selectWindow p a = none := by
  have hout : ¬inBytes p.regBase Config.regWindow a.addr = true := by
    rw [inBytes_iff, Config.regWindow]
    omega
  rw [selectWindow, if_neg hout]

/-- An access in the window is the host's own access to the transaction the window makes of it. -/
theorem selectWindow_eq_some_iff (p : Platform) (a : BusAccess) (t : Transaction) :
    selectWindow p a = some t ↔ a = busAccessOf p t := by
  constructor
  · intro h
    unfold selectWindow at h
    split at h
    · next hin =>
      cases h
      have hin : p.regBase ≤ a.addr ∧ a.addr < p.regBase + 4096 := (inBytes_iff ..).mp hin
      have haddr : a.addr = p.regBase + (a.addr - p.regBase) % 2 ^ 12 := by omega
      simp only [busAccessOf, BitVec.toNat_ofNat, ← haddr]
    · cases h
  · rintro rfl
    exact selectWindow_busAccessOf p t

/-- Settles O11: the block's accesses are the host's own accesses to its transactions. -/
theorem windowSelectsByOffset : Obligations.WindowSelectsByOffset := by
  refine ⟨fun p a t => ?_, fun s a rest hin hout => ?_⟩
  · rw [selectWindow_eq_some_iff]
    obtain ⟨addr, w, n, v⟩ := a
    simp only [busAccessOf, BusAccess.mk.injEq, eq_comm]
  · rw [step_access hin]
    simp only [runAccess, selectWindow_eq_none hout]

/-! ## Waits -/

/-- BUSY is bit 0 of STATUS. -/
theorem statusWord_getLsbD_zero (s : State) : (statusWord s).getLsbD 0 = s.busy := by
  rw [statusWord, BitVec.getLsbD_append]
  simp

theorem step_waitIdle {s : State} {rest : List Input} (hin : s.inputs = .waitIdle :: rest) :
    step s = runPoll { s with inputs := rest } := by
  simp only [step, hin]

theorem step_waitIrq {s : State} {rest : List Input} (hin : s.inputs = .waitIrq :: rest) :
    step s = runWaitIrq rest s := by
  simp only [step, hin]

/-- A poll answers STATUS, and puts an engine turn and itself back while BUSY = 1. -/
theorem runPoll_eq (s : State) : runPoll s = .next { s with
    inputs := if s.busy then .engine :: .waitIdle :: s.inputs else s.inputs
    answer := .data (statusWord s) } := by
  unfold runPoll
  split <;> rfl

/-- Settles O14: `wait` by its poll, `wfi` by irq and the engine's turn. -/
theorem waitsEndOnIdleAndOnIrq : Obligations.WaitsEndOnIdleAndOnIrq := by
  intro s rest
  refine ⟨fun hin => ⟨statusWord s, statusWord_getLsbD_zero s, ?_⟩, fun hin => ?_⟩
  · rw [step_waitIdle hin, runPoll_eq]
    rfl
  · rw [step_waitIrq hin]
    refine ⟨fun hirq => ?_, fun hirq hb => ?_, fun hirq hb => ?_⟩
    · rw [runWaitIrq, if_pos hirq]
    · simp [runWaitIrq, engineTurn, hirq, hb]
    · simp [runWaitIrq, engineTurn, hirq, hb]

/-! ## Pseudo-instructions -/

/-- `(K << 8) | op` is the command word with FSIZE = K. -/
theorem kernelWord_eq_cmdWord {k : Nat} (hk : k < 256) (op : BitVec 2) :
    kernelWord k op.toNat = cmdWord op (BitVec.ofNat 8 k) := by
  have hop := op.isLt
  have hor : 256 * k + op.toNat = 256 * k ||| op.toNat :=
    Nat.two_pow_add_eq_or_of_lt (i := 8) (by omega) k
  rw [← BitVec.toNat_inj, cmdWord_toNat, kernelWord, BitVec.toNat_or, BitVec.toNat_ofNat,
    BitVec.toNat_ofNat, BitVec.toNat_ofNat, Nat.mod_eq_of_lt (by omega),
    Nat.mod_eq_of_lt (by omega), Nat.mod_eq_of_lt (by omega), hor, mul_comm]

/-- A value of Q16.16 becomes its own 32 bits. -/
theorem lambdaWord_q16 (v : Word) : lambdaWord ((v.toInt : ℚ) / 65536) = some v := by
  have hlow : -2147483648 ≤ v.toInt := BitVec.le_toInt v
  have hhigh : v.toInt < 2147483648 := BitVec.toInt_lt
  have hscale : (v.toInt : ℚ) / 65536 * 65536 = (v.toInt : ℚ) := by ring
  have hmax : v.toInt ≤ 2147483647 := by omega
  simp [lambdaWord, hscale, hlow, hmax]

/-- Only a value of Q16.16 has a word. -/
theorem lambdaWord_eq_some {x : ℚ} {v : Word} (h : lambdaWord x = some v) :
    x * 65536 = v.toInt := by
  simp only [lambdaWord] at h
  split at h
  · next hx =>
    obtain ⟨hden, hlow, hhigh⟩ := hx
    cases h
    rw [BitVec.toInt_ofInt_eq_self (by decide) (by omega) (by omega)]
    exact (Rat.coe_int_num_of_den_eq_one hden).symm
  · cases h

/-- Settles O8: each command line by its word, `lambda` by the values of Q16.16. -/
theorem pseudoInstructionsExpand : Obligations.PseudoInstructionsExpand := by
  intro p
  refine ⟨rfl, fun k hk => ⟨?_, ?_⟩, rfl, rfl, rfl, fun v => ?_, fun x hx => ?_⟩
  · exact congrArg (fun v => some (hostWriteReg p offCmd v)) (kernelWord_eq_cmdWord hk 0b01#2)
  · exact congrArg (fun v => some (hostWriteReg p offCmd v)) (kernelWord_eq_cmdWord hk 0b10#2)
  · rw [assemble, lambdaWord_q16]
    rfl
  · rw [assemble, Option.map_eq_none_iff, Option.eq_none_iff_forall_ne_some]
    exact fun v h => hx v (lambdaWord_eq_some h)

end Sys2Proof.Machine
end

section
/-! SUPPORT. Register reads and writes, and command words of no filter row: what each operation answers
and what of the block it changes (spec/40_register_access.md R120 to R139). -/

namespace Sys2Proof.Machine

/-! ## Register values as numbers -/

theorem boolWord_toNat (b : Bool) : (boolWord b).toNat = if b then 1 else 0 := by
  cases b <;> rfl

theorem zext32_toNat (v : BitVec 16) : (zext32 v).toNat = v.toNat :=
  BitVec.toNat_setWidth_of_le (by decide)

theorem low16_toNat (v : Word) : (low16 v).toNat = v.toNat % 65536 := by
  simp [low16]

/-! ## Reads -/

/-- Settles O15: each of these reads answers its register's word as it stands. -/
theorem wholeWordReadsReturnTheRegister : Obligations.WholeWordReadsReturnTheRegister :=
  fun _ => ⟨rfl, rfl, rfl, rfl, rfl, fun _ _ => rfl⟩

/-- Settles O16: the words answered are IRQ_EN as a bit and W and H extended to 32 bits. -/
theorem narrowReadsAreZeroExtended : Obligations.NarrowReadsAreZeroExtended := by
  intro s
  exact ⟨ctrlWord s, zext32 s.width, zext32 s.height, rfl, boolWord_toNat s.irqEn, rfl,
    zext32_toNat s.width, rfl, zext32_toNat s.height⟩

/-! ## The STATUS word -/

/-- DONE and ERR are bits 1 and 2 of STATUS, and bit 3 reads 0. -/
theorem statusWord_flags (s : State) :
    (statusWord s).getLsbD 1 = s.done ∧ (statusWord s).getLsbD 2 = s.err ∧
      (statusWord s).getLsbD 3 = false := by
  refine ⟨?done, ?err, ?zero⟩
  all_goals
    rw [statusWord]
    iterate 4 rw [BitVec.getLsbD_append]
    simp

/-- From bit 4 on STATUS is ERR_CODE, with 0 above it. -/
theorem statusWord_getLsbD_four_add (s : State) (n : Nat) :
    (statusWord s).getLsbD (4 + n) = s.errCode.getLsbD n := by
  rw [Nat.add_comm, statusWord]
  iterate 5 rw [BitVec.getLsbD_append]
  simpa using BitVec.lt_of_getLsbD

/-- While a job runs DONE is clear and the only code that can be recorded is 1. -/
theorem statusWord_running {s : State} (hs : Legal s) (hb : s.busy = true) :
    statusWord s = 0x00000001#32 ∨ statusWord s = 0x00000015#32 := by
  obtain ⟨-, ⟨hclear, -, -, hbd⟩, hrun, -⟩ := hs
  obtain ⟨-, -, -, -, -, hcode⟩ := hrun hb
  have hdone : s.done = false := by simpa [hb] using hbd
  cases herr : s.err
  · left
    rw [statusWord, hb, hdone, herr, hclear herr]
    rfl
  · right
    rw [statusWord, hb, hdone, herr, hcode herr]
    rfl

/-- Settles O17: STATUS field by field, and its value in a legal running state. -/
theorem statusReadHasItsBits : Obligations.StatusReadHasItsBits := by
  intro s
  obtain ⟨hdone, herr, hzero⟩ := statusWord_flags s
  refine ⟨statusWord s, rfl, statusWord_getLsbD_zero s, hdone, herr, hzero,
    fun n _ => statusWord_getLsbD_four_add s n, fun n hn => ?_, statusWord_running⟩
  obtain ⟨m, rfl⟩ := Nat.exists_eq_add_of_le (show 4 ≤ n by omega)
  rw [statusWord_getLsbD_four_add]
  exact BitVec.getLsbD_of_ge _ _ (by omega)

/-! ## Writes -/

/-- Settles O19: WIDTH and HEIGHT keep the low half of WDATA, the others all of it. -/
theorem configWritesStoreWdata : Obligations.ConfigWritesStoreWdata :=
  fun _ v => ⟨⟨low16 v, low16_toNat v, rfl, rfl⟩, rfl, rfl, rfl⟩

/-- Settles O20: irq of the state after the write is read off its fields. -/
theorem ctrlWriteSetsIrqEnable : Obligations.CtrlWriteSetsIrqEnable :=
  fun _ _ => ⟨_, rfl, rfl, rfl⟩

/-- Settles O21: bit 1 decides DONE, bit 2 decides ERR and ERR_CODE. -/
theorem statusWriteClearsOnes : Obligations.StatusWriteClearsOnes := by
  intro s v
  refine ⟨{ clearStatus v s with answer := .done }, rfl, rfl, fun h1 => ?_, fun h1 => ?_,
    fun h2 => ?_, fun h2 => ?_, rfl⟩
  · simp only [clearStatus_done, h1, Bool.not_true, Bool.and_false]
  · simp only [clearStatus_done, h1, Bool.not_false, Bool.and_true]
  · simp only [clearStatus_err, clearStatus_errCode, h2, Bool.not_true, Bool.and_false,
      if_true, and_self]
  · simp only [clearStatus_err, clearStatus_errCode, h2, Bool.not_false, Bool.and_true,
      Bool.false_eq_true, if_false, and_self]

/-- Settles O22: neither write touches the block. -/
theorem idAndReservedWritesAreIgnored : Obligations.IdAndReservedWritesAreIgnored :=
  fun _ _ => ⟨rfl, fun _ _ => rfl⟩

/-! ## The fields of a command word -/

theorem wordOp_toNat (v : Word) : (wordOp v).toNat = v.toNat % 4 := by
  simp [wordOp]

theorem wordRsv0_toNat (v : Word) : (wordRsv0 v).toNat = v.toNat / 4 % 64 := by
  simp [wordRsv0, Nat.shiftRight_eq_div_pow]

theorem wordRsv1_toNat (v : Word) : (wordRsv1 v).toNat = v.toNat / 65536 := by
  have := v.isLt
  simp [wordRsv1, Nat.shiftRight_eq_div_pow]
  omega

/-- A reserved bit of a command word is set: bits 7:2 or bits 31:16. -/
theorem reservedBits_iff (v : Word) :
    (wordRsv0 v ≠ 0 ∨ wordRsv1 v ≠ 0) ↔ v.toNat / 4 % 64 ≠ 0 ∨ v.toNat / 65536 ≠ 0 := by
  rw [ne_eq, ne_eq, ← BitVec.toNat_inj, ← BitVec.toNat_inj, wordRsv0_toNat, wordRsv1_toNat]
  rfl

theorem kindOfOp_eq_none_iff (op : BitVec 2) : kindOfOp op = none ↔ op = 3#2 := by
  revert op
  decide

/-- Without reserved bits a command word is made of its OP and FSIZE. -/
theorem eq_cmdWord_of_reservedBits_clear {v : Word} (h0 : v.toNat / 4 % 64 = 0)
    (h1 : v.toNat / 65536 = 0) : v = cmdWord (wordOp v) (wordFsize v) := by
  rw [← BitVec.toNat_inj, cmdWord_toNat, wordOp_toNat, wordFsize_toNat]
  omega

/-! ## Rejected command words -/

theorem checkCommand_busy (v : Word) {s : State} (hb : s.busy = true) :
    checkCommand v s = .error .busy := if_pos hb

theorem checkCommand_rsvd {v : Word} {s : State} (hb : s.busy = false)
    (hr : wordRsv0 v ≠ 0 ∨ wordRsv1 v ≠ 0) : checkCommand v s = .error .rsvd := by
  rw [checkCommand, if_neg (by simp [hb]), if_pos hr]

theorem checkCommand_badOp {v : Word} {s : State} (hb : s.busy = false)
    (h0 : wordRsv0 v = 0) (h1 : wordRsv1 v = 0) (hop : kindOfOp (wordOp v) = none) :
    checkCommand v s = .error .badOp := by
  simp [checkCommand, hb, h0, h1, hop]

theorem checkCommand_badFsize {v : Word} {s : State} {op : FilterKind} (hb : s.busy = false)
    (h0 : wordRsv0 v = 0) (h1 : wordRsv1 v = 0) (hop : kindOfOp (wordOp v) = some op)
    (hk : resolveK op (wordFsize v) = .error .badFsize) :
    checkCommand v s = .error .badFsize := by
  simp [checkCommand, hb, h0, h1, hop, hk]

/-- A failing check turns WR.CMD away with its code. -/
theorem completes_wrCmd_of_error {v : Word} {s : State} {c : ErrCode}
    (h : checkCommand v s = .error c) :
    Completes (.wrCmd v) s { s with err := true, errCode := c.number, answer := .done } := by
  have hcommand : command v s = cmdError c s := by simp only [command, h]
  show answerWrite (command v s) = _
  rw [hcommand]
  rfl

/-- A word of no filter row with no reserved bit set and OP other than 3 is an IIR command with a
kernel side: BOX and SHARPEN take every FSIZE, IIR takes FSIZE 0 alone. -/
theorem op_and_fsize_of_not_filterWord {v : Word} (hv : isFilterWord v = false)
    (h0 : v.toNat / 4 % 64 = 0) (h1 : v.toNat / 65536 = 0) (hop : v.toNat % 4 ≠ 3) :
    wordOp v = 0 ∧ wordFsize v ≠ 0 := by
  obtain ⟨hiir, hbox, hsharpen⟩ := (isFilterWord_eq_false_iff v).mp hv
  have hword := eq_cmdWord_of_reservedBits_clear h0 h1
  have hmask {op : BitVec 2} (h : wordOp v = op) : v &&& 0xFFFF00FF#32 = op.setWidth 32 :=
    (and_filterMask_eq_iff v op).mpr (h ▸ hword)
  have hne1 : wordOp v ≠ 1#2 := fun h => hbox (hmask h)
  have hne2 : wordOp v ≠ 2#2 := fun h => hsharpen (hmask h)
  have hzero : wordOp v = 0 := by
    have hne3 : wordOp v ≠ 3#2 := by
      rw [ne_eq, ← BitVec.toNat_inj, wordOp_toNat]
      exact hop
    bv_omega
  refine ⟨hzero, fun hfsize => hiir ?_⟩
  rw [hword, hzero, hfsize]
  rfl

/-- Settles O28: a word that passes the checks of its reserved bits and of OP fails that of FSIZE. -/
theorem otherCommandWordsAreRejected : Obligations.OtherCommandWordsAreRejected := by
  intro s v hwf
  have hv : isFilterWord v = false := by simpa [Instr.wf] using hwf
  split_ifs with hb hr hop
  · exact completes_wrCmd_of_error (checkCommand_busy v hb)
  all_goals have hidle : s.busy = false := by simpa using hb
  · exact completes_wrCmd_of_error (checkCommand_rsvd hidle ((reservedBits_iff v).mpr hr))
  all_goals
    obtain ⟨hr0, hr1⟩ : wordRsv0 v = 0 ∧ wordRsv1 v = 0 := by
      simpa only [not_or, not_not] using mt (reservedBits_iff v).mp hr
  · have hnone : kindOfOp (wordOp v) = none := by
      rw [kindOfOp_eq_none_iff, ← BitVec.toNat_inj, wordOp_toNat, hop]
      rfl
    exact completes_wrCmd_of_error (checkCommand_badOp hidle hr0 hr1 hnone)
  · simp only [not_or, not_not] at hr
    obtain ⟨hzero, hfsize⟩ := op_and_fsize_of_not_filterWord hv hr.1 hr.2 hop
    have hiir : kindOfOp (wordOp v) = some .iir := by rw [hzero]; rfl
    exact completes_wrCmd_of_error (checkCommand_badFsize hidle hr0 hr1 hiir (if_pos hfsize))

end Sys2Proof.Machine
end

section
/-! SUPPORT. Command(v): what a write of CMD runs, the code of each failing check, and the job that
an accepted command starts (spec/41_command_sequencer.md R150 to R157; spec/60_exceptions.md R223,
R228). -/

namespace Sys2Proof.Machine

/-! ## A write of CMD runs Command(v) -/

/-- Whatever row a command word has, its effect is Command(v)'s. -/
theorem exec_decodeCmd (v : Word) (s : State) :
    exec (decodeCmd v) s = answerWrite (command v s) := by
  rcases decodeCmd_cases v with ⟨hv, hd⟩ | ⟨hv, hd⟩ | ⟨hv, hd⟩ | ⟨-, hd⟩ <;> rw [hd]
  case inl => rw [hv]; rfl
  case inr.inl => exact congrArg (fun w => answerWrite (command w s)) hv.symm
  case inr.inr.inl => exact congrArg (fun w => answerWrite (command w s)) hv.symm
  case inr.inr.inr => rfl

/-- A failing check rejects the word with its code. -/
theorem rejects_of_error {v : Word} {s : State} {c : ErrCode} (h : checkCommand v s = .error c) :
    Rejects v s c.number := by
  have hexec : exec (decodeCmd v) s = exec (.wrCmd v) s := exec_decodeCmd v s
  unfold Rejects Completes
  rw [hexec]
  exact completes_wrCmd_of_error h

/-! ## The checks of FSIZE and of the planes -/

theorem eq_zero_iff_toNat {n : Nat} (v : BitVec n) : v = 0 ↔ v.toNat = 0 := by
  rw [← BitVec.toNat_inj]
  rfl

/-- OP other than 3 selects a kind, and 0 selects IIR. -/
theorem kindOfOp_of_ne_three (op : BitVec 2) (h : op.toNat ≠ 3) :
    ∃ kind, kindOfOp op = some kind ∧ (kind = .iir ↔ op.toNat = 0) := by
  revert op
  decide

/-- The kernel side of a command: FSIZE has to be 0 for IIR, and 0 or odd for the other kinds. -/
theorem resolveK_badFsize_iff (kind : FilterKind) (f : BitVec 8) :
    resolveK kind f = .error .badFsize ↔ f.toNat ≠ 0 ∧ (kind = .iir ∨ f.toNat % 2 = 0) := by
  have hzero := eq_zero_iff_toNat f
  cases kind with
  | iir => simpa [resolveK] using not_congr hzero
  | box =>
    simp only [resolveK, hzero]
    split_ifs <;> simp [*]
  | sharpen =>
    simp only [resolveK, hzero]
    split_ifs <;> simp [*]

theorem exists_resolveK {kind : FilterKind} {f : BitVec 8}
    (h : ¬(f.toNat ≠ 0 ∧ (kind = .iir ∨ f.toNat % 2 = 0))) : ∃ k, resolveK kind f = .ok k := by
  cases hk : resolveK kind f with
  | ok k => exact ⟨k, rfl⟩
  | error c => exact absurd ((resolveK_badFsize_iff kind f).mp (resolveK_error hk ▸ hk)) h

theorem placementOk_iff (kind : FilterKind) (src dst n : Nat) :
    placementOk kind src dst n = true ↔
      src + n ≤ dst ∨ dst + n ≤ src ∨ kind = .iir ∧ src = dst := by
  cases kind <;> simp [placementOk, or_assoc]

/-! ## The checks of a whole command -/

theorem reservedBits_clear {v : Word} (hr : ¬(v.toNat / 4 % 64 ≠ 0 ∨ v.toNat / 65536 ≠ 0)) :
    wordRsv0 v = 0 ∧ wordRsv1 v = 0 := by
  simpa only [not_or, not_not] using mt (reservedBits_iff v).mp hr

/-- The kind of a word that passes the checks of its reserved bits and of OP. -/
theorem exists_kind {v : Word} (hr : ¬(v.toNat / 4 % 64 ≠ 0 ∨ v.toNat / 65536 ≠ 0))
    (hop : v.toNat % 4 ≠ 3) :
    wordRsv0 v = 0 ∧ wordRsv1 v = 0 ∧
      ∃ kind, kindOfOp (wordOp v) = some kind ∧ (kind = .iir ↔ v.toNat % 4 = 0) := by
  obtain ⟨h0, h1⟩ := reservedBits_clear hr
  rw [← wordOp_toNat] at hop ⊢
  exact ⟨h0, h1, kindOfOp_of_ne_three _ hop⟩

/-- Past the checks of the word, the check of the planes decides. -/
theorem checkCommand_planes_error {v : Word} {s : State} {kind : FilterKind} {k : Nat} {c : ErrCode}
    (hb : s.busy = false) (h0 : wordRsv0 v = 0) (h1 : wordRsv1 v = 0)
    (hop : kindOfOp (wordOp v) = some kind) (hk : resolveK kind (wordFsize v) = .ok k)
    (hp : checkPlanes kind s = .error c) : checkCommand v s = .error c := by
  simp [checkCommand, hb, h0, h1, hop, hk, hp]

/-- A command that passes every check is accepted with its kind and kernel side. -/
theorem checkCommand_accepts {v : Word} {s : State} {kind : FilterKind} {k : Nat}
    (hb : s.busy = false) (h0 : wordRsv0 v = 0) (h1 : wordRsv1 v = 0)
    (hop : kindOfOp (wordOp v) = some kind) (hk : resolveK kind (wordFsize v) = .ok k)
    (hp : checkPlanes kind s = .ok ()) : checkCommand v s = .ok (kind, k) := by
  simp [checkCommand, hb, h0, h1, hop, hk, hp]

theorem checkPlanes_badDim (kind : FilterKind) {s : State}
    (h : s.width.toNat = 0 ∨ s.height.toNat = 0) : checkPlanes kind s = .error .badDim := by
  rw [← eq_zero_iff_toNat, ← eq_zero_iff_toNat] at h
  exact if_pos h

theorem checkPlanes_badRange (kind : FilterKind) {s : State}
    (hdim : ¬(s.width.toNat = 0 ∨ s.height.toNat = 0))
    (h : s.srcBase.toNat + s.width.toNat * s.height.toNat > Config.dataSpace ∨
      s.dstBase.toNat + s.width.toNat * s.height.toNat > Config.dataSpace) :
    checkPlanes kind s = .error .badRange := by
  rw [← eq_zero_iff_toNat, ← eq_zero_iff_toNat] at hdim
  exact (if_neg hdim).trans (if_pos h)

theorem checkPlanes_overlap {kind : FilterKind} {s : State}
    (hdim : ¬(s.width.toNat = 0 ∨ s.height.toNat = 0))
    (hrange : ¬(s.srcBase.toNat + s.width.toNat * s.height.toNat > Config.dataSpace ∨
      s.dstBase.toNat + s.width.toNat * s.height.toNat > Config.dataSpace))
    (h : placementOk kind s.srcBase.toNat s.dstBase.toNat
      (s.width.toNat * s.height.toNat) = false) :
    checkPlanes kind s = .error .overlap := by
  rw [← eq_zero_iff_toNat, ← eq_zero_iff_toNat] at hdim
  exact (if_neg hdim).trans ((if_neg hrange).trans (if_pos h))

/-- Settles O25: the checks of the word one by one, those of the planes after the word's kind and
kernel side are known. -/
theorem commandChecksInOrder : Obligations.CommandChecksInOrder := by
  intro s v op fsize n S D reserved badSize noPlane tooFar overlap
  have hsize {kind : FilterKind} (hkind : kind = .iir ↔ op = 0) :
      badSize ↔ (wordFsize v).toNat ≠ 0 ∧ (kind = .iir ∨ (wordFsize v).toNat % 2 = 0) := by
    rw [wordFsize_toNat, hkind]
    by_cases hop : op = 0 <;> simp [badSize, fsize, hop]
  have hplanes (c : ErrCode) (hb : s.busy = false) (hr : ¬reserved) (hop : op ≠ 3)
      (hgood : ¬badSize)
      (hp : ∀ kind, (kind = .iir ↔ op = 0) → checkPlanes kind s = .error c) :
      Rejects v s c.number := by
    obtain ⟨h0, h1, kind, hk, hkind⟩ := exists_kind hr hop
    obtain ⟨k, hres⟩ := exists_resolveK (mt (hsize hkind).mpr hgood)
    exact rejects_of_error (checkCommand_planes_error hb h0 h1 hk hres (hp kind hkind))
  refine ⟨fun hb => ?busy, fun hb hr => ?rsvd, fun hb hr hop => ?badOp,
    fun hb hr hop hbad => ?badFsize, fun hb hr hop hgood hdim => ?badDim,
    fun hb hr hop hgood hdim hfar => ?badRange,
    fun hb hr hop hgood hdim hfar hover => ?overlap⟩
  case busy => exact rejects_of_error (checkCommand_busy v hb)
  case rsvd => exact rejects_of_error (checkCommand_rsvd hb ((reservedBits_iff v).mpr hr))
  case badOp =>
    obtain ⟨h0, h1⟩ := reservedBits_clear hr
    have hnone : kindOfOp (wordOp v) = none := by
      rw [kindOfOp_eq_none_iff, ← BitVec.toNat_inj, wordOp_toNat]
      exact hop
    exact rejects_of_error (checkCommand_badOp hb h0 h1 hnone)
  case badFsize =>
    obtain ⟨h0, h1, kind, hk, hkind⟩ := exists_kind hr hop
    have hres := (resolveK_badFsize_iff kind _).mpr ((hsize hkind).mp hbad)
    exact rejects_of_error (checkCommand_badFsize hb h0 h1 hk hres)
  case badDim => exact hplanes .badDim hb hr hop hgood fun kind _ => checkPlanes_badDim kind hdim
  case badRange =>
    exact hplanes .badRange hb hr hop hgood fun kind _ => checkPlanes_badRange kind hdim hfar
  case overlap =>
    refine hplanes .overlap hb hr hop hgood fun kind hkind => checkPlanes_overlap hdim hfar ?_
    rw [← Bool.not_eq_true, placementOk_iff, hkind]
    exact hover

/-! ## Accepted commands -/

theorem sext32_eq_toInt (v : Word) : sext32 v = v.toInt := by
  have hv := v.isLt
  rw [sext32, BitVec.toInt_eq_toNat_cond]
  split_ifs <;> omega

/-- The snapshot, with R from K for every kind: for K = 0 too it is (K - 1) div 2. -/
theorem snapshot_eq (kind : FilterKind) (k : Nat) (s : State) :
    snapshot kind k s =
      { op := kind, k := k, r := (k - 1) / 2, l := s.lambda.toInt, w := s.width, h := s.height,
        src := s.srcBase, dst := s.dstBase } := by
  rw [snapshot, sext32_eq_toInt]
  cases k <;> rfl

/-- The command that passes every check starts its job and is stored. -/
theorem answerWrite_command_of_ok {v : Word} {s : State} {kind : FilterKind} {k : Nat}
    (h : checkCommand v s = .ok (kind, k)) :
    answerWrite (command v s) = .next { s with
      job := { op := kind, k := k, r := (k - 1) / 2, l := s.lambda.toInt, w := s.width,
               h := s.height, src := s.srcBase, dst := s.dstBase }
      cmdLast := v
      history := []
      pos := ⟨0, 0⟩
      done := false
      err := false
      errCode := 0#4
      busy := true
      answer := .done } := by
  have hcommand : command v s = accept kind k v s := by simp only [command, h]
  rw [hcommand, accept, snapshot_eq]
  rfl

/-- The planes that pass their checks, as numbers. -/
theorem checkPlanes_passes {kind : FilterKind} {s : State} (hw : s.width.toNat ≠ 0)
    (hh : s.height.toNat ≠ 0)
    (hsrc : s.srcBase.toNat + s.width.toNat * s.height.toNat ≤ Config.dataSpace)
    (hdst : s.dstBase.toNat + s.width.toNat * s.height.toNat ≤ Config.dataSpace)
    (hplace : placementOk kind s.srcBase.toNat s.dstBase.toNat
      (s.width.toNat * s.height.toNat) = true) :
    checkPlanes kind s = .ok () :=
  (checkPlanes_ok_iff ..).mpr ⟨mt (eq_zero_iff_toNat _).mp hw, mt (eq_zero_iff_toNat _).mp hh,
    hsrc, hdst, hplace⟩

/-- Settles O26: the word 0 passes the checks of its fields. -/
theorem iirCommandStartsAJob : Obligations.IirCommandStartsAJob := by
  intro s n hb hw hh hsrc hdst hplace
  have hplanes : checkPlanes .iir s = .ok () := by
    refine checkPlanes_passes hw hh hsrc hdst ((placementOk_iff ..).mpr ?_)
    rw [BitVec.toNat_inj]
    simpa using hplace
  exact answerWrite_command_of_ok (v := iirWord) (checkCommand_accepts hb rfl rfl rfl rfl hplanes)

/-! ## The words of BOX and SHARPEN -/

theorem cmdWord_fields (op : BitVec 2) (f : BitVec 8) :
    wordRsv0 (cmdWord op f) = 0 ∧ wordRsv1 (cmdWord op f) = 0 ∧ wordOp (cmdWord op f) = op := by
  have hop := op.isLt
  have hf := f.isLt
  rw [eq_zero_iff_toNat, eq_zero_iff_toNat, ← BitVec.toNat_inj, wordRsv0_toNat, wordRsv1_toNat,
    wordOp_toNat, cmdWord_toNat]
  refine ⟨?_, ?_, ?_⟩
  · omega
  · omega
  · omega

theorem cmdWord_eq_ofNat (op : BitVec 2) (f : BitVec 8) :
    cmdWord op f = BitVec.ofNat 32 (f.toNat * 256 + op.toNat) := by
  have hop := op.isLt
  have hf := f.isLt
  apply BitVec.eq_of_toNat_eq
  rw [cmdWord_toNat, BitVec.toNat_ofNat]
  omega

/-- FSIZE 0 or odd resolves to the default of the kind or to itself. -/
theorem resolveK_of_zero_or_odd {f : BitVec 8} (hf : f.toNat = 0 ∨ f.toNat % 2 = 1) :
    resolveK .box f = .ok (if f.toNat = 0 then 9 else f.toNat) ∧
      resolveK .sharpen f = .ok (if f.toNat = 0 then 5 else f.toNat) := by
  have hodd : ¬f.toNat = 0 → ¬f.toNat % 2 = 0 := by omega
  by_cases h0 : f.toNat = 0
  · obtain rfl : f = 0 := (eq_zero_iff_toNat f).mpr h0
    exact ⟨rfl, rfl⟩
  · have hne : ¬f = 0#8 := mt (eq_zero_iff_toNat f).mp h0
    simp [resolveK, h0, hne, hodd h0]

/-- Settles O27: both words pass the checks of their fields, with the kernel side that FSIZE
resolves to. -/
theorem boxAndSharpenCommandsStartAJob : Obligations.BoxAndSharpenCommandsStartAJob := by
  intro s f n started hb hw hh hsrc hdst hplace hf
  have hplanes (kind : FilterKind) : checkPlanes kind s = .ok () :=
    checkPlanes_passes hw hh hsrc hdst
      ((placementOk_iff ..).mpr (hplace.imp_right Or.inl))
  obtain ⟨hbox, hsharpen⟩ := resolveK_of_zero_or_odd hf
  have hcompletes {op : BitVec 2} {kind : FilterKind} {k : Nat} (hkind : kindOfOp op = some kind)
      (hk : resolveK kind f = .ok k) :
      answerWrite (command (cmdWord op f) s) = .next (started kind op.toNat k) := by
    obtain ⟨h0, h1, hop⟩ := cmdWord_fields op f
    have hok : checkCommand (cmdWord op f) s = .ok (kind, k) :=
      checkCommand_accepts hb h0 h1 (by rw [hop, hkind]) (by rw [wordFsize_cmdWord, hk])
        (hplanes kind)
    rw [answerWrite_command_of_ok hok, cmdWord_eq_ofNat]
  exact ⟨hcompletes (op := 0b01#2) rfl hbox, hcompletes (op := 0b10#2) rfl hsharpen⟩

/-! ## Transactions and the running job -/

/-- An operation runs its WDATA as a command, or leaves BUSY as it is. -/
theorem exec_command_or_keeps_busy {i : Instr} {s t : State} (h : exec i s = .next t) :
    ((encode i).offset = offCmd ∧ i.isWrite = true ∧
      t = { command (encode i).wdata s with answer := .done }) ∨ t.busy = s.busy := by
  cases i
  case cmdIir => cases h; exact .inl ⟨rfl, rfl, rfl⟩
  case cmdBox f => cases h; exact .inl ⟨rfl, rfl, rfl⟩
  case cmdSharpen f => cases h; exact .inl ⟨rfl, rfl, rfl⟩
  case wrCmd v => cases h; exact .inl ⟨rfl, rfl, rfl⟩
  all_goals cases h; exact .inr rfl

/-- A command after which BUSY rose has stored its word. -/
theorem cmdLast_of_command_rises {v : Word} {s : State} (hb : s.busy = false)
    (h : (command v s).busy = true) : (command v s).cmdLast = v := by
  rcases command_cases v s with ⟨c, -, he⟩ | ⟨op, k, -, he⟩
  · rw [he, cmdError_busy, hb] at h
    cases h
  · rw [he, accept_cmdLast]

/-- While a job runs no operation touches it. -/
theorem exec_keeps_running {i : Instr} {s t : State} (h : exec i s = .next t)
    (hb : s.busy = true) :
    t.busy = true ∧ t.job = s.job ∧ t.pos = s.pos ∧ t.history = s.history ∧
      t.cmdLast = s.cmdLast := by
  obtain ⟨-, -, -, -, hkeeps | ⟨op, k, v, hok, -⟩⟩ := exec_keeps h
  · rwa [hb] at hkeeps
  · obtain ⟨hidle, -⟩ := checkCommand_ok hok
    rw [hb] at hidle
    cases hidle

/-- Settles O29: only Command(v) raises BUSY, and its check 1 turns it away while a job runs. -/
theorem onlyCommandsStartJobs : Obligations.OnlyCommandsStartJobs := by
  intro i s t h
  refine ⟨fun hs ht => ?_, exec_keeps_running h⟩
  rcases exec_command_or_keeps_busy h with ⟨hoff, hw, rfl⟩ | hsame
  · exact ⟨hoff, hw, cmdLast_of_command_rises hs ht⟩
  · rw [ht, hs] at hsame
    cases hsame

end Sys2Proof.Machine
end

section
/-! SUPPORT. The datapath against the source's filters over the rationals: the clip unit, the window
sums and the recursion through the output history (spec/42_filter_commands.md R180 to R191). -/

namespace Sys2Proof.Machine

/-! ## The clip unit -/

theorem floor_intCast_div (n : Int) {d : Int} (hd : 0 < d) : ⌊(n : ℚ) / (d : ℚ)⌋ = n / d := by
  lift d to Nat using hd.le
  exact_mod_cast Rat.floor_intCast_div_natCast n d

/-- The source's quantizer clamps the integer below its argument. -/
theorem sourceQuantize_eq_clamp (r : ℚ) : sourceQuantize r = (clamp ⌊r⌋ 0 255).toNat := by
  unfold sourceQuantize clamp
  by_cases hneg : r < 0
  · have hfloor : ⌊r⌋ < 0 := Int.floor_lt.mpr (by exact_mod_cast hneg)
    rw [if_pos hneg, if_pos hfloor]
    rfl
  have hnonneg : ¬⌊r⌋ < 0 := not_lt.mpr (Int.floor_nonneg.mpr (not_lt.mp hneg))
  rw [if_neg hneg, if_neg hnonneg]
  by_cases hhigh : 255 < r
  · have hfloor : 255 ≤ ⌊r⌋ := Int.le_floor.mpr (by exact_mod_cast hhigh.le)
    rw [if_pos hhigh]
    split_ifs <;> omega
  · have hfloor : ¬255 < ⌊r⌋ := fun h =>
      hhigh ((Int.cast_lt (R := ℚ).mpr h).trans_le (Int.floor_le r))
    rw [if_neg hhigh, if_neg hfloor]

/-- The clip unit is the source's quantizer of N / D. -/
theorem quantize_toNat_eq_sourceQuantize (n : Int) {d : Int} (hd : 0 < d) :
    (quantize n d).toNat = sourceQuantize ((n : ℚ) / (d : ℚ)) := by
  rw [quantize_toNat, sourceQuantize_eq_clamp, floor_intCast_div n hd]

/-! ## The window -/

/-- The boundary mux without negative numbers. -/
theorem neighbour_eq (j : Job) (x : Coord) (m n : Nat) :
    neighbour j x m n =
      if j.r ≤ x.row + m ∧ x.row + m < j.h.toNat + j.r ∧
          j.r ≤ x.col + n ∧ x.col + n < j.w.toNat + j.r then
        some ⟨x.row + m - j.r, x.col + n - j.r⟩
      else none := by
  simp only [neighbour, inside, Bool.and_eq_true, decide_eq_true_eq]
  split_ifs
  · simp only [Option.some.injEq, Coord.mk.injEq]
    omega
  · omega
  · omega
  · rfl

theorem sum_map_filterMap {α β : Type} (l : List α) (g : α → Option β) (f : β → Nat) :
    ((l.filterMap g).map f).sum = (l.map fun a => ((g a).map f).getD 0).sum := by
  induction l with
  | nil => rfl
  | cons a l ih => cases h : g a <;> simp [h, ih]

/-- A sum over a window, as a sum over the kernel's offsets. -/
theorem sum_map_window (j : Job) (x : Coord) (f : Coord → Nat) :
    ((window j x).map f).sum =
      ∑ m ∈ Finset.range j.k, ∑ n ∈ Finset.range j.k, ((neighbour j x m n).map f).getD 0 := by
  rw [window, List.map_flatMap, List.flatMap_def, List.sum_flatten, List.map_map]
  simp only [Function.comp_def, sum_map_filterMap]
  rfl

theorem accumulate_eq_windowSum {s : State} {x : Coord} {n : Nat} (h : accumulate s x = .value n) :
    (n : ℚ) = windowSum (planeAt s.mem s.job.src.toNat s.job.w.toNat) s.job.h.toNat s.job.w.toNat
      s.job.k s.job.r (fun _ _ => 1) x.row x.col := by
  obtain ⟨-, hn⟩ := sumInputs_value h
  rw [hn, sum_map_window]
  simp only [windowSum, neighbour_eq, Nat.cast_sum, one_mul]
  refine Finset.sum_congr rfl fun m _ => Finset.sum_congr rfl fun n _ => ?_
  split_ifs
  · rfl
  · exact Nat.cast_zero

/-! ## Weighted window sums -/

section
variable (inp : Nat → Nat → Nat) (h w k r : Nat)

theorem windowSum_const_mul (c : ℚ) (weight : Nat → Nat → ℚ) (i j : Nat) :
    windowSum inp h w k r (fun m n => c * weight m n) i j =
      c * windowSum inp h w k r weight i j := by
  simp only [windowSum, Finset.mul_sum, mul_ite, mul_zero, mul_assoc]

theorem windowSum_add (weight weight' : Nat → Nat → ℚ) (i j : Nat) :
    windowSum inp h w k r (fun m n => weight m n + weight' m n) i j =
      windowSum inp h w k r weight i j + windowSum inp h w k r weight' i j := by
  simp only [windowSum, ← Finset.sum_add_distrib, add_mul]
  refine Finset.sum_congr rfl fun m _ => Finset.sum_congr rfl fun n _ => ?_
  split_ifs
  · rfl
  · exact (add_zero 0).symm

variable {inp h w k r}

/-- The centre weight alone picks the cell's own sample. -/
theorem windowSum_centre (c : ℚ) {i j : Nat} (hi : i < h) (hj : j < w) (hr : r < k) :
    windowSum inp h w k r (fun m n => if m = r ∧ n = r then c else 0) i j = c * inp i j := by
  have hmem := Finset.mem_range.mpr hr
  rw [windowSum, Finset.sum_eq_single_of_mem r hmem, Finset.sum_eq_single_of_mem r hmem]
  · simp [hi, hj]
  · intro n _ hn
    simp [hn]
  · intro m _ hm
    simp [hm]

theorem sourceBox_eq (i j : Nat) :
    sourceBox inp h w k r i j = windowSum inp h w k r (fun _ _ => 1) i j / (k : ℚ) ^ 2 := by
  have hmul := windowSum_const_mul inp h w k r (1 / (k : ℚ) ^ 2) (fun _ _ => 1) i j
  simp only [mul_one] at hmul
  rw [sourceBox, hmul, one_div_mul_eq_div]

/-- The sharpen weights are the identity, and λ times the identity without the mean. -/
theorem sourceSharpen_eq (lam : ℚ) {i j : Nat} (hi : i < h) (hj : j < w) (hr : r < k) :
    sourceSharpen inp h w k r lam i j =
      inp i j + lam * (inp i j - windowSum inp h w k r (fun _ _ => 1) i j / (k : ℚ) ^ 2) := by
  have hweight : (fun m n : Nat => if m = r ∧ n = r then 1 + lam * (1 - 1 / (k : ℚ) ^ 2)
        else -lam * (1 / (k : ℚ) ^ 2)) =
      fun m n => -lam * (1 / (k : ℚ) ^ 2) * 1 + if m = r ∧ n = r then 1 + lam else 0 := by
    funext m n
    split_ifs <;> ring
  simp only [sourceSharpen, hweight]
  rw [windowSum_add, windowSum_const_mul, windowSum_centre _ hi hj hr]
  ring

end

/-! ## The output history -/

/-- Two coordinates of a plane with the same number are one. -/
theorem rank_inj {w : Nat} {c d : Coord} (hc : c.col < w) (hd : d.col < w)
    (h : rank w c = rank w d) : c = d := by
  have hdivmod : ∀ e : Coord, e.col < w → rank w e / w = e.row ∧ rank w e % w = e.col := by
    intro e he
    refine ⟨?_, Nat.mul_add_mod_of_lt he⟩
    rw [rank, Nat.mul_comm, Nat.mul_add_div (by omega), Nat.div_eq_of_lt he, Nat.add_zero]
  obtain ⟨hcrow, hccol⟩ := hdivmod c hc
  obtain ⟨hdrow, hdcol⟩ := hdivmod d hd
  rw [h] at hcrow hccol
  exact congrArg₂ Coord.mk (hcrow.symm.trans hdrow) (hccol.symm.trans hdcol)

/-- The history lists every coordinate before number `n`. -/
theorem mem_history_of_rank_lt {w n : Nat} {l : List HistoryCell} (h : historyCovers w n l = true)
    {x : Coord} (hcol : x.col < w) (hlt : rank w x < n) : ∃ c ∈ l, c.at_ = x := by
  induction l generalizing n with
  | nil =>
    have hn : n = 0 := by simpa [historyCovers] using h
    omega
  | cons c t ih =>
    simp only [historyCovers, Bool.and_eq_true, decide_eq_true_eq] at h
    obtain ⟨⟨hn, hc⟩, ht⟩ := h
    by_cases hx : rank w x = rank w c.at_
    · exact ⟨c, List.mem_cons_self, rank_inj hc hcol hx.symm⟩
    · obtain ⟨d, hd, hdx⟩ := ih ht (by omega)
      exact ⟨d, List.mem_cons_of_mem _ hd, hdx⟩

/-- While a job runs, O at a coordinate before pos is the byte of the output plane. -/
theorem historyGet_eq_get {s : State} (hrun : RunOk s) {p q : Nat} (hcol : q < s.job.w.toNat)
    (hlt : rank s.job.w.toNat ⟨p, q⟩ < rank s.job.w.toNat s.pos) :
    historyGet s p q = s.mem.get (s.job.outAddr p q) := by
  obtain ⟨-, -, -, hcov, hvals, -⟩ := hrun
  have hfound := (findCell_isSome_iff ..).mpr (mem_history_of_rank_lt hcov hcol hlt)
  obtain ⟨v, hv⟩ := Option.isSome_iff_exists.mp hfound
  rw [historyGet_of_find hv]
  exact (hvals _ (findCell_some_mem hv)).symm

/-- A coordinate up and left of another comes before it. -/
theorem rank_lt_of_le {w p q i j : Nat} (hp : p ≤ i) (hq : q ≤ j) (hj : j < w)
    (hne : p ≠ i ∨ q ≠ j) : rank w ⟨p, q⟩ < rank w ⟨i, j⟩ := by
  have hrow : p * w ≤ i * w := Nat.mul_le_mul_right w hp
  simp only [rank]
  rcases Nat.lt_or_ge p i with hlt | hge
  · have hnext : (p + 1) * w ≤ i * w := Nat.mul_le_mul_right w hlt
    rw [Nat.succ_mul] at hnext
    omega
  · omega

/-! ## The three kinds of cell -/

/-- N / D of the IIR recurrence at pos is the source's recursion over the planes in memory. -/
theorem iirNumerator_div_eq_sourceIir {s : State} (hrun : RunOk s) :
    (iirNumerator s s.pos (s.mem.get (s.job.inAddr s.pos.row s.pos.col)) : ℚ) / Config.iirScale =
      sourceIir (planeAt s.mem s.job.src.toNat s.job.w.toNat)
        (planeAt s.mem s.job.dst.toNat s.job.w.toNat) s.pos.row s.pos.col := by
  obtain ⟨-, -, hcol, -⟩ := id hrun
  have hout : ∀ p q, p ≤ s.pos.row → q ≤ s.pos.col → (p ≠ s.pos.row ∨ q ≠ s.pos.col) →
      planeAt s.mem s.job.dst.toNat s.job.w.toNat p q = (historyGet s p q).toNat :=
    fun p q hp hq hne => congrArg BitVec.toNat
      (historyGet_eq_get hrun (by omega) (rank_lt_of_le hp hq hcol hne)).symm
  have hinp : planeAt s.mem s.job.src.toNat s.job.w.toNat s.pos.row s.pos.col =
      (s.mem.get (s.job.inAddr s.pos.row s.pos.col)).toNat := rfl
  simp only [iirNumerator, sourceIir, hinp, Config.iirA, Config.iirB, Config.iirC, Config.iirScale]
  split_ifs with h00 hrow0 hcol0
  · push_cast
    ring
  · rw [hout _ _ le_rfl (by omega) (by omega)]
    push_cast
    ring
  · rw [hout _ _ (by omega) le_rfl (by omega)]
    push_cast
    ring
  · rw [hout (s.pos.row - 1) s.pos.col (by omega) le_rfl (by omega),
      hout s.pos.row (s.pos.col - 1) le_rfl (by omega) (by omega),
      hout (s.pos.row - 1) (s.pos.col - 1) (by omega) (by omega) (by omega)]
    push_cast
    ring

theorem cellIir_toNat {s : State} (hrun : RunOk s) {v : Byte} (h : cellIir s s.pos = .value v) :
    v.toNat = sourceQuantize (sourceIir (planeAt s.mem s.job.src.toNat s.job.w.toNat)
      (planeAt s.mem s.job.dst.toNat s.job.w.toNat) s.pos.row s.pos.col) := by
  unfold cellIir at h
  split at h
  case h_2 => cases h
  case h_3 => cases h
  next x hx =>
  cases h
  obtain ⟨-, -, rfl⟩ := (memRead_value_iff ..).mp hx
  rw [quantize_toNat_eq_sourceQuantize _ (by decide), iirNumerator_div_eq_sourceIir hrun]

theorem cellBox_toNat {s : State} {x : Coord} (hk : 0 < s.job.k) {v : Byte}
    (h : cellBox s x = .value v) :
    v.toNat = sourceQuantize (sourceBox (planeAt s.mem s.job.src.toNat s.job.w.toNat)
      s.job.h.toNat s.job.w.toNat s.job.k s.job.r x.row x.col) := by
  unfold cellBox at h
  split at h
  case h_2 => cases h
  case h_3 => cases h
  next acc hacc =>
  cases h
  rw [quantize_toNat_eq_sourceQuantize _ (by positivity), sourceBox_eq,
    ← accumulate_eq_windowSum hacc]
  push_cast
  rw [sq]

theorem cellSharpen_toNat {s : State} {x : Coord} (hrow : x.row < s.job.h.toNat)
    (hcol : x.col < s.job.w.toNat) (hr : s.job.r < s.job.k) {v : Byte}
    (h : cellSharpen s x = .value v) :
    v.toNat = sourceQuantize (sourceSharpen (planeAt s.mem s.job.src.toNat s.job.w.toNat)
      s.job.h.toNat s.job.w.toNat s.job.k s.job.r (jobLambda s.job) x.row x.col) := by
  unfold cellSharpen at h
  split at h
  case h_2 => cases h
  case h_3 => cases h
  next xc hxc =>
  split at h
  case h_2 => cases h
  case h_3 => cases h
  next acc hacc =>
  cases h
  obtain ⟨-, -, rfl⟩ := (memRead_value_iff ..).mp hxc
  have hk : 0 < s.job.k := by omega
  have hk0 : (s.job.k : ℚ) ≠ 0 := by positivity
  have hinp : planeAt s.mem s.job.src.toNat s.job.w.toNat x.row x.col =
      (s.mem.get (s.job.inAddr x.row x.col)).toNat := rfl
  rw [quantize_toNat_eq_sourceQuantize _ (by unfold sharpenDenominator; positivity),
    sourceSharpen_eq _ hrow hcol hr, ← accumulate_eq_windowSum hacc, hinp]
  congr 1
  simp only [sharpenNumerator, sharpenDenominator, jobLambda]
  push_cast
  field_simp

/-- The value of the cell at pos is the one the source's filter gives. -/
theorem cellValue_toNat {s : State} (hrun : RunOk s) {v : Byte}
    (h : cellValue s s.pos = .value v) :
    v.toNat = sourceCell s.job (planeAt s.mem s.job.src.toNat s.job.w.toNat)
      (planeAt s.mem s.job.dst.toNat s.job.w.toNat) s.pos.row s.pos.col := by
  obtain ⟨⟨-, -, -, -, -, ⟨-, hkernel⟩, -⟩, hrow, hcol, -⟩ := id hrun
  unfold cellValue at h
  unfold sourceCell
  cases hop : s.job.op with
  | iir =>
    rw [hop] at h
    exact cellIir_toNat hrun h
  | box =>
    obtain ⟨hk, -⟩ := hkernel (by simp [hop])
    rw [hop] at h
    exact cellBox_toNat (by omega) h
  | sharpen =>
    obtain ⟨hk, -⟩ := hkernel (by simp [hop])
    rw [hop] at h
    exact cellSharpen_toNat hrow hcol (by omega) h

end Sys2Proof.Machine
end

section
/-! SUPPORT. A running job keeps faith with the memory it started from, and a completed one holds
its filter's output (spec/41_command_sequencer.md R158, R163; spec/20_memory.md R80). -/

namespace Sys2Proof.Machine

/-! ## What the source's cell depends on -/

theorem windowSum_congr {inp inp' : Nat → Nat → Nat} {h w : Nat}
    (hinp : ∀ p q, p < h → q < w → inp p q = inp' p q) (k r : Nat) (weight : Nat → Nat → ℚ)
    (i j : Nat) : windowSum inp h w k r weight i j = windowSum inp' h w k r weight i j := by
  unfold windowSum
  refine Finset.sum_congr rfl fun m _ => Finset.sum_congr rfl fun n _ => ?_
  split_ifs with hin
  · rw [hinp _ _ (by omega) (by omega)]
  · rfl

/-- IIR takes a cell's own sample and the outputs up and left of it, the others the input plane. -/
theorem sourceCell_congr {j : Job} {inp inp' out out' : Nat → Nat → Nat} {i c : Nat}
    (hcell : inp i c = inp' i c)
    (hplane : j.op ≠ .iir → ∀ p q, p < j.h.toNat → q < j.w.toNat → inp p q = inp' p q)
    (hout : ∀ p q, p ≤ i → q ≤ c → (p ≠ i ∨ q ≠ c) → out p q = out' p q) :
    sourceCell j inp out i c = sourceCell j inp' out' i c := by
  unfold sourceCell
  cases hop : j.op with
  | iir =>
    simp only [sourceIir, hcell]
    split_ifs with h00 hrow hcol
    · rfl
    · rw [hout _ _ le_rfl (by omega) (by omega)]
    · rw [hout _ _ (by omega) le_rfl (by omega)]
    · rw [hout (i - 1) c (by omega) le_rfl (by omega), hout i (c - 1) le_rfl (by omega) (by omega),
        hout (i - 1) (c - 1) (by omega) (by omega) (by omega)]
  | box => exact congrArg sourceQuantize (windowSum_congr (hplane (by simp [hop])) ..)
  | sharpen => exact congrArg sourceQuantize (windowSum_congr (hplane (by simp [hop])) ..)

/-! ## What being faithful depends on -/

theorem inOutput_of_rank_lt {j : Job} {p q : Nat} (h : rank j.w.toNat ⟨p, q⟩ < j.count) :
    j.inOutput (j.outAddr p q) = true := by
  rw [outAddr_eq_rank j ⟨p, q⟩]
  exact (inBytes_iff ..).mpr ⟨by omega, by omega⟩

/-- It rests on the job, on pos and on the bytes of the job's planes alone. -/
theorem Faithful.congr {m : Memory} {s t : State} (h : Faithful m s) (hrun : RunOk s)
    (hjob : t.job = s.job) (hpos : t.pos = s.pos)
    (hmem : ∀ a, s.job.inInput a = true ∨ s.job.inOutput a = true → t.mem.get a = s.mem.get a) :
    Faithful m t := by
  obtain ⟨-, hrow, hcol, -⟩ := hrun
  obtain ⟨hcells, hinput⟩ := h
  have hcount := rank_lt_count hrow hcol
  have hplane : ∀ p q, rank s.job.w.toNat ⟨p, q⟩ < rank s.job.w.toNat s.pos →
      planeAt t.mem s.job.dst.toNat s.job.w.toNat p q =
        planeAt s.mem s.job.dst.toNat s.job.w.toNat p q := fun p q hlt =>
    congrArg BitVec.toNat (hmem _ (.inr (inOutput_of_rank_lt (hlt.trans hcount))))
  unfold Faithful
  rw [hjob, hpos]
  refine ⟨fun p q hq hlt => ?_, fun a ha hne => ?_⟩
  · rw [hplane p q hlt, hcells p q hq hlt]
    exact sourceCell_congr rfl (fun _ _ _ _ _ => rfl) fun p' q' hp' hq' hne =>
      (hplane p' q' ((rank_lt_of_le hp' hq' hq hne).trans hlt)).symm
  · rw [hmem a (.inl ha), hinput a ha hne]

/-! ## Writing the cell at pos -/

theorem sampleAddr_eq_rank (base w : Nat) (c : Coord) :
    sampleAddr base w c.row c.col = base + rank w c := Nat.add_assoc ..

/-- No sample the cell at pos depends on has been overwritten: the planes are disjoint, or for IIR
are one and the cell reads its own sample. -/
theorem Faithful.input_eq {m : Memory} {s : State} (h : Faithful m s) (hrun : RunOk s) {y : Coord}
    (hrow : y.row < s.job.h.toNat) (hcol : y.col < s.job.w.toNat)
    (hy : s.job.op = .iir → y = s.pos) :
    planeAt s.mem s.job.src.toNat s.job.w.toNat y.row y.col =
      planeAt m s.job.src.toNat s.job.w.toNat y.row y.col := by
  obtain ⟨⟨-, -, -, -, hplace, -⟩, hprow, hpcol, -⟩ := hrun
  obtain ⟨-, hinput⟩ := h
  refine congrArg BitVec.toNat (hinput _ (inInput_inAddr hrow hcol) fun p q hq hlt heq => ?_)
  have hycount := rank_lt_count hrow hcol
  have hpcount := rank_lt_count hprow hpcol
  rw [sampleAddr_eq_rank, outAddr_eq_rank s.job ⟨p, q⟩] at heq
  rcases (placementOk_iff ..).mp hplace with hdisj | hdisj | ⟨hiir, hsame⟩
  · omega
  · omega
  · rw [hy hiir] at heq
    omega

theorem finishCell_job (s : State) (m : Memory) (v : Byte) : (finishCell s m v).job = s.job := by
  rcases finishCell_cases s m v with ⟨-, he⟩ | ⟨-, he⟩ <;> rw [he]

theorem finishCell_pos (s : State) (m : Memory) (v : Byte) :
    (finishCell s m v).pos = nextPos s.job.w.toNat s.pos := by
  rcases finishCell_cases s m v with ⟨-, he⟩ | ⟨-, he⟩ <;> rw [he]

/-- Writing a cell leaves the output samples before it alone. -/
theorem planeAt_set_of_rank_lt {s : State} {c : Coord} (v : Byte) (p q : Nat)
    (hlt : rank s.job.w.toNat ⟨p, q⟩ < rank s.job.w.toNat c) :
    planeAt (s.mem.set (s.job.outAddr c.row c.col) v) s.job.dst.toNat s.job.w.toNat p q =
      planeAt s.mem s.job.dst.toNat s.job.w.toNat p q := by
  refine congrArg BitVec.toNat (Memory.get_set_other _ v ?_)
  rw [sampleAddr_eq_rank _ _ ⟨p, q⟩, outAddr_eq_rank]
  omega

/-- The engine keeps the job faithful, at the last cell too: the cell at pos gets its filter's
value, and no other byte changes. -/
theorem Faithful.of_finishCell {m : Memory} {s : State} (h : Faithful m s) (hrun : RunOk s)
    {v : Byte} (hv : cellValue s s.pos = .value v) :
    Faithful m (finishCell s (s.mem.set (s.job.outAddr s.pos.row s.pos.col) v) v) := by
  obtain ⟨-, hrow, hcol, -⟩ := id hrun
  obtain ⟨hcells, hinput⟩ := id h
  obtain ⟨hnext, -⟩ := rank_nextPos hcol
  have hother := planeAt_set_of_rank_lt (s := s) (c := s.pos) v
  unfold Faithful
  rw [finishCell_job, finishCell_pos, finishCell_mem, hnext]
  refine ⟨fun p q hq hlt => ?_, fun a ha hne => ?_⟩
  · have hout : ∀ p' q', p' ≤ p → q' ≤ q → (p' ≠ p ∨ q' ≠ q) →
        rank s.job.w.toNat ⟨p', q'⟩ < rank s.job.w.toNat s.pos := fun p' q' hp' hq' hne => by
      have := rank_lt_of_le hp' hq' hq hne
      omega
    rcases Nat.lt_succ_iff_lt_or_eq.mp hlt with hbefore | hat
    · rw [hother p q hbefore, hcells p q hq hbefore]
      exact sourceCell_congr rfl (fun _ _ _ _ _ => rfl) fun p' q' hp' hq' hne =>
        (hother p' q' (hout p' q' hp' hq' hne)).symm
    · have hpos : ⟨p, q⟩ = s.pos := rank_inj hq hcol hat
      obtain ⟨rfl, rfl⟩ : p = s.pos.row ∧ q = s.pos.col := by simp [← hpos]
      calc planeAt _ s.job.dst.toNat s.job.w.toNat s.pos.row s.pos.col
          = v.toNat := congrArg BitVec.toNat (Memory.get_set_same ..)
        _ = _ := cellValue_toNat hrun hv
        _ = _ := sourceCell_congr (h.input_eq hrun hrow hcol fun _ => rfl)
            (fun hop p' q' hp' hq' =>
              h.input_eq hrun (y := ⟨p', q'⟩) hp' hq' fun hi => absurd hi hop)
            fun p' q' hp' hq' hne => (hother p' q' (hout p' q' hp' hq' hne)).symm
  · rw [Memory.get_set_other _ v (hne _ _ hcol (Nat.lt_succ_self _))]
    exact hinput a ha fun p q hq hlt => hne p q hq (by omega)

/-! ## A step of a running job -/

/-- What a step can do to a running job: it leaves the job and its planes alone, writes the cell at
pos, aborts the job, or resets the block. -/
inductive RunningStep (s t : State) : Prop where
  | kept (hbusy : t.busy = true) (hjob : t.job = s.job) (hpos : t.pos = s.pos)
      (hmem : ∀ a, s.job.inInput a = true ∨ s.job.inOutput a = true → t.mem.get a = s.mem.get a)
  | wrote (rest : List Input) (v : Byte) (hv : cellValue { s with inputs := rest } s.pos = .value v)
      (h : t = finishCell { s with inputs := rest }
        (s.mem.set (s.job.outAddr s.pos.row s.pos.col) v) v)
  | aborted (rest : List Input) (h : t = jobAbort .bus { s with inputs := rest })
  | reset (rest : List Input) (h : t = assertReset { s with inputs := rest })

theorem runningStep_of_step {s t : State} (hb : s.busy = true) (h : step s = .next t) :
    RunningStep s t := by
  cases step_cases h with
  | hostSide h =>
    rw [h]
    exact .kept hb rfl rfl fun _ _ => rfl
  | operation a rest o hin hsel h =>
    obtain ⟨hmem, -⟩ := exec_keeps h
    obtain ⟨hbusy, hjob, hpos, -⟩ := exec_keeps_running h hb
    exact .kept hbusy hjob hpos fun a _ => by rw [hmem]
  | agentWrote a v rest hin hplanes h =>
    obtain ⟨hi, ho⟩ := hplanes hb
    rw [h]
    refine .kept hb rfl rfl fun b hplane => Memory.get_set_other _ v ?_
    rintro rfl
    simp [hi, ho] at hplane
  | cell rest hbusy h =>
    have hends := cellStep_cases { s with inputs := rest }
    rw [h] at hends
    cases hends with
    | wrote v hv ha hm => exact .wrote rest v hv rfl
    | aborted he => exact .aborted rest rfl
  | reset rest hin h => exact .reset rest h

/-- A step that neither aborts the job nor resets the block keeps it faithful, the last one
included. -/
theorem Faithful.of_step {m : Memory} {s t : State} (h : Faithful m s) (hs : Legal s)
    (hb : s.busy = true) (hstep : step s = .next t)
    (hgood : t.busy = true ∨ t.done = true ∧ t.errCode ≠ 8#4) :
    Faithful m t ∧ t.job = s.job := by
  obtain ⟨-, -, hrun, -⟩ := hs
  have hrun := hrun hb
  cases runningStep_of_step hb hstep with
  | kept hbusy hjob hpos hmem => exact ⟨h.congr hrun hjob hpos hmem, hjob⟩
  | wrote rest v hv he =>
    rw [he]
    exact ⟨Faithful.of_finishCell (s := { s with inputs := rest }) h hrun hv, finishCell_job ..⟩
  | aborted rest he =>
    rw [he] at hgood
    simp [ErrCode.number] at hgood
  | reset rest he =>
    rw [he] at hgood
    rcases hgood with hbusy | ⟨hdone, -⟩
    · cases hbusy
    · cases hdone

/-- At its first cell a job has written and overwritten nothing. -/
theorem faithful_start {s : State} (hpos : s.pos = ⟨0, 0⟩) : Faithful s.mem s := by
  refine ⟨fun p q _ hlt => ?_, fun a _ _ => rfl⟩
  rw [hpos] at hlt
  simp [rank] at hlt

/-- Settles O57, from what a step can do to a running job. -/
theorem stepKeepsTheOutputFaithful : Obligations.StepKeepsTheOutputFaithful :=
  ⟨fun _ hpos => faithful_start hpos,
    fun _ _ _ hs hb hf hstep ht => hf.of_step hs hb hstep (.inl ht)⟩

/-! ## Completed jobs -/

/-- While a job runs on from its first cell it stays legal, the same and faithful to its start. -/
theorem RunsBusy.faithful {s u : State} (hs : Legal s) (hpos : s.pos = ⟨0, 0⟩)
    (h : RunsBusy s u) (hu : u.busy = true) : Legal u ∧ Faithful s.mem u ∧ u.job = s.job := by
  induction h with
  | refl => exact ⟨hs, faithful_start hpos, rfl⟩
  | tail _ hbc ih =>
    obtain ⟨hb, hstep⟩ := hbc
    obtain ⟨hlegal, hf, hjob⟩ := ih hb
    obtain ⟨hf', hjob'⟩ := hf.of_step hlegal hb hstep (.inl hu)
    exact ⟨stepKeepsLegal _ _ hlegal hstep, hf', hjob'.trans hjob⟩

/-- A job that ends by completing has its scan at the end of the plane. -/
theorem pos_of_completing_step {s t : State} (hb : s.busy = true) (hstep : step s = .next t)
    (hbusy : t.busy = false) (hdone : t.done = true) (hcode : t.errCode ≠ 8#4) :
    t.pos = ⟨s.job.h.toNat, 0⟩ := by
  cases runningStep_of_step hb hstep with
  | kept hbusy' _ _ _ =>
    rw [hbusy] at hbusy'
    cases hbusy'
  | wrote rest v hv he =>
    rcases finishCell_cases { s with inputs := rest }
      (s.mem.set (s.job.outAddr s.pos.row s.pos.col) v) v with ⟨-, hf⟩ | ⟨hlast, hf⟩
    · rw [he, hf] at hbusy
      exact absurd (hb.symm.trans hbusy) nofun
    · rw [he, hf]
      exact hlast
  | aborted rest he =>
    rw [he] at hcode
    exact absurd rfl hcode
  | reset rest he =>
    rw [he] at hdone
    cases hdone

/-- The number of a cell inside the plane is before that of the scan's end. -/
theorem rank_end (j : Job) : rank j.w.toNat ⟨j.h.toNat, 0⟩ = j.count :=
  Nat.mul_comm ..

/-- Settles O43: the job is faithful to its start when the scan has passed every cell. -/
theorem completedJobHoldsItsFilter : Obligations.CompletedJobHoldsItsFilter := by
  intro s u t hs _ hpos hrun hu hstep hbusy hdone hcode
  obtain ⟨hlegal, hf, hjob⟩ := hrun.faithful hs hpos hu
  obtain ⟨⟨hcells, hinput⟩, hjob'⟩ := hf.of_step hlegal hu hstep (.inr ⟨hdone, hcode⟩)
  have hend := pos_of_completing_step hu hstep hbusy hdone hcode
  rw [hjob', hend, hjob, rank_end] at hcells hinput
  refine ⟨fun i j hi hj => hcells i j hj (rank_lt_count (c := ⟨i, j⟩) hi hj),
    fun a ha hout => hinput a ha fun p q _ hlt heq => ?_⟩
  rw [heq, inOutput_of_rank_lt hlt] at hout
  cases hout

/-- Two planes that a filter fills from the same input are the same, by induction on row + column.
-/
theorem filtered_planes_eq {j : Job} {inp inp' out out' : Nat → Nat → Nat}
    (hinp : ∀ p q, p < j.h.toNat → q < j.w.toNat → inp' p q = inp p q)
    (hout : ∀ p q, p < j.h.toNat → q < j.w.toNat → out p q = sourceCell j inp out p q)
    (hout' : ∀ p q, p < j.h.toNat → q < j.w.toNat → out' p q = sourceCell j inp' out' p q)
    (i c : Nat) (hi : i < j.h.toNat) (hc : c < j.w.toNat) : out' i c = out i c := by
  rw [hout i c hi hc, hout' i c hi hc]
  refine sourceCell_congr (hinp i c hi hc) (fun _ => hinp) fun p q hp hq hne => ?_
  exact filtered_planes_eq hinp hout hout' p q (by omega) (by omega)
termination_by i + c
decreasing_by omega

/-- Settles O44: the plane addresses of a job do not enter its filter, and its filter fixes the
output plane. -/
theorem outputDependsOnlyOnJobAndInput : Obligations.OutputDependsOnlyOnJobAndInput := by
  intro s u t s' u' t' hs hb hpos hrun hu hstep hbusy hdone hcode
    hs' hb' hpos' hrun' hu' hstep' hbusy' hdone' hcode' hjob hinput
  obtain ⟨hout, -⟩ :=
    completedJobHoldsItsFilter s u t hs hb hpos hrun hu hstep hbusy hdone hcode
  obtain ⟨hout', -⟩ :=
    completedJobHoldsItsFilter s' u' t' hs' hb' hpos' hrun' hu' hstep' hbusy' hdone' hcode'
  have hsame : sourceCell s'.job = sourceCell s.job := by rw [hjob]; rfl
  have hdims : s'.job.h = s.job.h ∧ s'.job.w = s.job.w := by rw [hjob]; exact ⟨rfl, rfl⟩
  rw [hsame, hdims.1, hdims.2] at hout'
  exact filtered_planes_eq hinput hout hout'

end Sys2Proof.Machine
end

section
/-! SUPPORT. The engine's turn and its bus errors: which samples a cell reads, when its step writes
the cell and when it aborts the job (spec/41_command_sequencer.md R158 to R162;
spec/60_exceptions.md R225). -/

namespace Sys2Proof.Machine

/-! ## Turns -/

theorem step_nil {s : State} (hin : s.inputs = []) : step s = engineTurn s := by
  simp only [step, hin]

theorem step_engine {s : State} {rest : List Input} (hin : s.inputs = .engine :: rest) :
    step s = engineTurn { s with inputs := rest } := by
  simp only [step, hin]

/-- Settles O13: in both cases the step is the engine's turn. -/
theorem engineTurnIsAStep : Obligations.EngineTurnIsAStep :=
  fun _ _ => ⟨step_nil, step_engine⟩

theorem engineTurn_busy {s : State} (hb : s.busy = true) : engineTurn s = cellStep s :=
  if_pos hb

/-! ## The samples a cell reads -/

/-- `y` is a coordinate of the plane within the job's radius of `x`. -/
def Job.Reads (j : Job) (x y : Coord) : Prop :=
  y.row < j.h.toNat ∧ y.col < j.w.toNat ∧ y.row ≤ x.row + j.r ∧ x.row ≤ y.row + j.r ∧
    y.col ≤ x.col + j.r ∧ x.col ≤ y.col + j.r

theorem Job.Reads.self {j : Job} {x : Coord} (hrow : x.row < j.h.toNat) (hcol : x.col < j.w.toNat) :
    j.Reads x x :=
  ⟨hrow, hcol, Nat.le_add_right .., Nat.le_add_right .., Nat.le_add_right .., Nat.le_add_right ..⟩

/-- With radius 0 a cell reads its own sample alone. -/
theorem Job.Reads.eq_of_radius_zero {j : Job} {x y : Coord} (hr : j.r = 0) (h : j.Reads x y) :
    y = x := by
  obtain ⟨-, -, hrow, hrow', hcol, hcol'⟩ := h
  exact congrArg₂ Coord.mk (by omega) (by omega)

/-- With K = 2R + 1 the window is exactly the coordinates of the plane within the radius. -/
theorem mem_window_iff {j : Job} (hk : j.k = 2 * j.r + 1) (x y : Coord) :
    y ∈ window j x ↔ j.Reads x y := by
  simp only [window, List.mem_flatMap, List.mem_filterMap, List.mem_range, neighbour_eq]
  constructor
  · rintro ⟨m, hm, n, hn, h⟩
    split_ifs at h
    cases h
    refine ⟨?_, ?_, ?_, ?_, ?_, ?_⟩ <;> simp only <;> omega
  · rintro ⟨hrow, hcol, hrow1, hrow2, hcol1, hcol2⟩
    refine ⟨y.row + j.r - x.row, by omega, y.col + j.r - x.col, by omega, ?_⟩
    rw [if_pos (by omega)]
    exact congrArg some (congrArg₂ Coord.mk (by omega) (by omega))

/-- A sum has a value exactly when every listed sample has one. -/
theorem accumulate_value_iff (s : State) (x : Coord) :
    (∃ n, accumulate s x = .value n) ↔ ∀ y ∈ window s.job x, ∃ v, readInput s y = .value v :=
  ⟨fun ⟨_, h⟩ => (sumInputs_value h).1, sumInputs_of_readable⟩

theorem cellIir_value_iff (s : State) (x : Coord) :
    (∃ v, cellIir s x = .value v) ↔ ∃ v, readInput s x = .value v := by
  unfold cellIir
  cases readInput s x <;> simp

theorem cellBox_value_iff (s : State) (x : Coord) :
    (∃ v, cellBox s x = .value v) ↔ ∃ n, accumulate s x = .value n := by
  unfold cellBox
  cases accumulate s x <;> simp

theorem cellSharpen_value_iff (s : State) (x : Coord) :
    (∃ v, cellSharpen s x = .value v) ↔
      (∃ v, readInput s x = .value v) ∧ ∃ n, accumulate s x = .value n := by
  unfold cellSharpen
  cases readInput s x <;> cases accumulate s x <;> simp

/-- A cell has a value exactly when every sample it reads has one. -/
theorem cellValue_value_iff {s : State} {x : Coord} (hkernel : KernelOk s.job)
    (hrow : x.row < s.job.h.toNat) (hcol : x.col < s.job.w.toNat) :
    (∃ v, cellValue s x = .value v) ↔
      ∀ y, s.job.Reads x y → ∃ v, readInput s y = .value v := by
  obtain ⟨hiir, hodd⟩ := hkernel
  have hself : s.job.Reads x x := .self hrow hcol
  unfold cellValue
  cases hop : s.job.op with
  | iir =>
    obtain ⟨-, hr⟩ := hiir hop
    rw [cellIir_value_iff]
    exact ⟨fun h y hy => hy.eq_of_radius_zero hr ▸ h, fun h => h x hself⟩
  | box =>
    obtain ⟨hk, -⟩ := hodd (by simp [hop])
    simp only [cellBox_value_iff, accumulate_value_iff, mem_window_iff hk]
  | sharpen =>
    obtain ⟨hk, -⟩ := hodd (by simp [hop])
    simp only [cellSharpen_value_iff, accumulate_value_iff, mem_window_iff hk]
    exact ⟨And.right, fun h => ⟨h x hself, h⟩⟩

/-! ## Bus errors of a cell -/

theorem cellBusError_iff (s : State) :
    CellBusError s ↔
      (∃ y, s.job.Reads s.pos y ∧
        memAdmit s.platform .read (s.job.inAddr y.row y.col) = false) ∨
      memAdmit s.platform .write (s.job.outAddr s.pos.row s.pos.col) = false :=
  or_congr_left
    ⟨fun ⟨p, q, hrow, hcol, hrow1, hrow2, hcol1, hcol2, h⟩ =>
      ⟨⟨p, q⟩, ⟨hrow, hcol, hrow1, hrow2, hcol1, hcol2⟩, h⟩,
    fun ⟨y, ⟨hrow, hcol, hrow1, hrow2, hcol1, hcol2⟩, h⟩ =>
      ⟨y.row, y.col, hrow, hcol, hrow1, hrow2, hcol1, hcol2, h⟩⟩

/-- In a plane of the data space a sample can be read exactly where the platform admits the read. -/
theorem readInput_value_iff {s : State} {y : Coord}
    (hsrc : s.job.src.toNat + s.job.count ≤ Config.dataSpace)
    (hrow : y.row < s.job.h.toNat) (hcol : y.col < s.job.w.toNat) :
    (∃ v, readInput s y = .value v) ↔
      memAdmit s.platform .read (s.job.inAddr y.row y.col) = true := by
  have hin := (inBytes_iff ..).mp (inInput_inAddr hrow hcol)
  simp only [readInput, memRead_value_iff, exists_and_left, exists_eq, and_true]
  exact and_iff_right (by omega)

/-- A running job's cell has no bus error exactly when it has a value and its write is admitted. -/
theorem not_cellBusError_iff {s : State} (hrun : RunOk s) :
    ¬CellBusError s ↔
      (∃ v, cellValue s s.pos = .value v) ∧
        memAdmit s.platform .write (s.job.outAddr s.pos.row s.pos.col) = true := by
  obtain ⟨⟨-, -, hsrc, -, -, hkernel, -⟩, hrow, hcol, -⟩ := hrun
  rw [cellBusError_iff, cellValue_value_iff hkernel hrow hcol, not_or, Bool.not_eq_false]
  refine and_congr_left fun _ => ?_
  push Not
  refine forall₂_congr fun y hy => ?_
  obtain ⟨hyrow, hycol, -⟩ := hy
  rw [readInput_value_iff hsrc hyrow hycol, Bool.ne_false_iff]

/-! ## The two ends of a running job's cell step -/

theorem cellStep_of_value {s : State} {v : Byte} (hrun : RunOk s)
    (hv : cellValue s s.pos = .value v)
    (hm : memAdmit s.platform .write (s.job.outAddr s.pos.row s.pos.col) = true) :
    cellStep s = .next (finishCell s (s.mem.set (s.job.outAddr s.pos.row s.pos.col) v) v) := by
  obtain ⟨⟨-, -, -, hdst, -⟩, hrow, hcol, -⟩ := hrun
  have hin := (inBytes_iff ..).mp (inOutput_outAddr hrow hcol)
  have hwrite := (memWrite_value_iff s (s.job.outAddr s.pos.row s.pos.col) v _).mpr
    ⟨by omega, hm, rfl⟩
  simp only [cellStep, hv, hwrite]

theorem cellStep_of_busError {s : State} (hrun : RunOk s) (h : CellBusError s) :
    cellStep s = .next (jobAbort .bus s) := by
  have hfault := cellStep_ne_fault hrun
  have hends := cellStep_cases s
  generalize cellStep s = o at hfault hends
  cases hends with
  | wrote v hv ha hm => exact absurd h ((not_cellBusError_iff hrun).mpr ⟨⟨v, hv⟩, hm⟩)
  | aborted _ => rfl
  | outside _ => exact absurd rfl (hfault _)

/-- Settles O32: without a bus error the cell has a value, its write is admitted, and the step
finishes the cell. -/
theorem cellStepWritesOneSample : Obligations.CellStepWritesOneSample := by
  intro s hs hb hno
  obtain ⟨-, -, hrun, -⟩ := hs
  obtain ⟨⟨v, hv⟩, hm⟩ := (not_cellBusError_iff (hrun hb)).mp hno
  have hturn := (engineTurn_busy hb).trans (cellStep_of_value (hrun hb) hv hm)
  refine ⟨v, _, hv, hturn, ?_, ?_, ?_, ?_, ?_⟩
  · rw [finishCell_mem, Memory.get_set_same]
  · intro a ha
    rw [finishCell_mem, Memory.get_set_other _ v ha]
  · rw [finishCell_pos, nextPos]
  all_goals
    rw [finishCell_pos]
    intro hend
    rcases finishCell_cases s (s.mem.set (s.job.outAddr s.pos.row s.pos.col) v) v with
      ⟨hlast, he⟩ | ⟨hlast, he⟩ <;> rw [he]
  · exact absurd hlast hend
  · exact absurd hend hlast

/-- Settles O33: with a bus error the step aborts the job, which scrambles the output plane alone.
-/
theorem busErrorAbortsTheJob : Obligations.BusErrorAbortsTheJob := by
  intro s hs hb herror
  obtain ⟨-, -, hrun, -⟩ := hs
  obtain ⟨⟨-, -, -, hdst, -⟩, -⟩ := hrun hb
  refine ⟨jobAbort .bus s, (engineTurn_busy hb).trans (cellStep_of_busError (hrun hb) herror), rfl,
    fun a ha => Memory.get_scramble_other _ _ _ _ ha, fun a ha => ?_⟩
  obtain ⟨-, hlt⟩ := (inBytes_iff ..).mp ha
  exact Memory.get_scramble_inside _ _ _ _ ha (by omega)

end Sys2Proof.Machine
end

section
/-! SUPPORT. Whole jobs: the host's moves leave a running job alone, a job takes one step a cell,
and every job ends (spec/41_command_sequencer.md R151, R160, R161). -/

namespace Sys2Proof.Machine

/-! ## The host's moves -/

/-- A move that is not reset and gives the engine no turn leaves a running job alone and is over,
but for a poll, which puts an engine turn and itself back. -/
theorem hostMove_keeps_running {s t : State} {x : Input} {rest : List Input}
    (hin : s.inputs = x :: rest) (hb : s.busy = true) (hreset : x ≠ .reset) (hengine : x ≠ .engine)
    (hirq : x ≠ .waitIrq) (h : step s = .next t) :
    (t.busy = true ∧ t.job = s.job ∧ t.pos = s.pos ∧ t.history = s.history) ∧
      t.inputs = if x = .waitIdle then .engine :: .waitIdle :: rest else rest := by
  cases x with
  | access a =>
    rw [step_access hin] at h
    unfold runAccess at h
    split at h
    · obtain ⟨hbusy, hjob, hpos, hhist, -⟩ := exec_keeps_running h hb
      obtain ⟨-, -, hinputs, -⟩ := exec_keeps h
      exact ⟨⟨hbusy, hjob, hpos, hhist⟩, hinputs⟩
    · cases h
      exact ⟨⟨hb, rfl, rfl, rfl⟩, rfl⟩
  | memWrite a v =>
    rw [step_memWrite hin] at h
    obtain ⟨-, rfl⟩ := agentWrite_cases h
    exact ⟨⟨hb, rfl, rfl, rfl⟩, rfl⟩
  | memRead a =>
    rw [step_memRead hin] at h
    unfold hostRead at h
    split at h <;> cases h <;> exact ⟨⟨hb, rfl, rfl, rfl⟩, rfl⟩
  | waitIrq => exact absurd rfl hirq
  | waitIdle =>
    rw [step_waitIdle hin, runPoll_eq] at h
    cases h
    exact ⟨⟨hb, rfl, rfl, rfl⟩, if_pos hb⟩
  | engine => exact absurd rfl hengine
  | reset => exact absurd rfl hreset

/-- Settles O46: of the moves that leave a running job alone, each by its own effect. -/
theorem hostCannotDisturbAJob : Obligations.HostCannotDisturbAJob := by
  intro s t x rest hin hb hreset hengine hirq h
  exact (hostMove_keeps_running hin hb hreset hengine hirq h).1

/-! ## One step a cell -/

/-- `t` is `s` with the job's first `n` cells written and nothing else changed. -/
def CellsWritten (s : State) (n : Nat) (t : State) : Prop :=
  t = { s with mem := t.mem, pos := t.pos, history := t.history } ∧ Legal t ∧
    rank s.job.w.toNat t.pos = n ∧ ∀ a, s.job.inOutput a = false → t.mem.get a = s.mem.get a

theorem not_cellBusError_of_planesAdmitted {s : State} (hadmit : PlanesAdmitted s)
    (hrow : s.pos.row < s.job.h.toNat) (hcol : s.pos.col < s.job.w.toNat) : ¬CellBusError s := by
  obtain ⟨hread, hwrite⟩ := hadmit
  rw [cellBusError_iff]
  rintro (⟨y, ⟨hyrow, hycol, -⟩, h⟩ | h)
  · rw [hread _ (inInput_inAddr hyrow hycol)] at h
    cases h
  · rw [hwrite _ (inOutput_outAddr hrow hcol)] at h
    cases h

/-- A scan is at its end exactly when it has passed every cell. -/
theorem eq_end_iff_rank {j : Job} {c : Coord} (hcol : c.col < j.w.toNat) :
    c = ⟨j.h.toNat, 0⟩ ↔ rank j.w.toNat c = j.count := by
  refine ⟨fun h => h ▸ rank_end j, fun h => ?_⟩
  exact rank_inj hcol (Nat.zero_lt_of_lt hcol) (h.trans (rank_end j).symm)

/-- `u` is `s` with the job completed: every cell written, and nothing outside the output plane. -/
def JobCompleted (s u : State) : Prop :=
  u = { s with
    busy := false, done := true, pos := ⟨s.job.h.toNat, 0⟩, history := [], mem := u.mem } ∧
  ∀ a, s.job.inOutput a = false → u.mem.get a = s.mem.get a

/-- With nothing pending and every access admitted the engine writes the next cell, and completes
the job if that was its last. -/
theorem CellsWritten.step_next {s t : State} {n : Nat} (h : CellsWritten s n t) (hb : s.busy = true)
    (hin : s.inputs = []) (hadmit : PlanesAdmitted s) :
    ∃ u, step t = .next u ∧ (n + 1 < s.job.count → CellsWritten s (n + 1) u) ∧
      (n + 1 = s.job.count → JobCompleted s u) := by
  obtain ⟨heq, hlegal, hrank, hframe⟩ := h
  obtain ⟨hbusy, hjob, hplatform, hinputs⟩ : t.busy = s.busy ∧ t.job = s.job ∧
      t.platform = s.platform ∧ t.inputs = s.inputs := by
    rw [heq]
    exact ⟨rfl, rfl, rfl, rfl⟩
  have hbt := hbusy.trans hb
  obtain ⟨-, -, hrun, -⟩ := id hlegal
  obtain ⟨-, hrow, hcol, -⟩ := hrun hbt
  have hno : ¬CellBusError t := by
    refine not_cellBusError_of_planesAdmitted ?_ hrow hcol
    rwa [PlanesAdmitted, hjob, hplatform]
  obtain ⟨v, u, -, hturn, -, hother, hpos, hgoes, hends⟩ := cellStepWritesOneSample t hlegal hbt hno
  have hstep : step t = .next u := (step_nil (hinputs.trans hin)).trans hturn
  obtain ⟨hnext, hnextcol⟩ := rank_nextPos hcol
  rw [← show u.pos = nextPos t.job.w.toNat t.pos from hpos, hjob] at hnext hnextcol
  have hend := eq_end_iff_rank hnextcol
  have hframe' : ∀ a, s.job.inOutput a = false → u.mem.get a = s.mem.get a := by
    intro a ha
    rw [← hframe a ha]
    refine hother a ?_
    rintro rfl
    rw [← hjob, inOutput_outAddr hrow hcol] at ha
    cases ha
  refine ⟨u, hstep, fun hlt => ?_, fun hlast => ?_⟩
  · have hu := hgoes (by rw [hjob, ne_eq, hend]; omega)
    refine ⟨?_, stepKeepsLegal _ _ hlegal hstep, by omega, hframe'⟩
    rw [hu, heq]
  · have hlastpos := hend.mpr (by omega)
    have hu := hends (by rw [hjob]; exact hlastpos)
    refine ⟨?_, hframe'⟩
    rw [hlastpos] at hu
    rw [hu, heq]

/-- Before the last cell, `n` steps write `n` cells. -/
theorem run_cellsWritten {s : State} (hs : Legal s) (hb : s.busy = true) (hpos : s.pos = ⟨0, 0⟩)
    (hin : s.inputs = []) (hadmit : PlanesAdmitted s) {n : Nat} (hn : n < s.job.count) :
    ∃ t, core.run n s = .next t ∧ CellsWritten s n t := by
  induction n with
  | zero => exact ⟨s, rfl, rfl, hs, by simp [hpos, rank], fun _ _ => rfl⟩
  | succ n ih =>
    obtain ⟨t, hrun, hcells⟩ := ih (by omega)
    obtain ⟨u, hstep, hgoes, -⟩ := hcells.step_next hb hin hadmit
    exact ⟨u, (run_succ (M := core) hrun).trans hstep, hgoes hn⟩

/-- Settles O42: `W * H - 1` steps write all cells but the last, and one more completes the job. -/
theorem jobTakesOneStepPerCell : Obligations.JobTakesOneStepPerCell := by
  intro s hs hb hpos hin hadmit
  obtain ⟨-, -, hrun, -⟩ := id hs
  obtain ⟨-, hrow, hcol, -, -, hcode⟩ := hrun hb
  have hcount := rank_lt_count hrow hcol
  have hrunning {n : Nat} (hn : n < s.job.count) := run_cellsWritten hs hb hpos hin hadmit hn
  refine ⟨fun n hn => ?_, ?_⟩
  · obtain ⟨t, ht, heq, -⟩ := hrunning hn
    exact ⟨t, ht, by rw [heq]; exact hb⟩
  · obtain ⟨n, hlast⟩ : ∃ n, n + 1 = s.job.count := ⟨s.job.count - 1, by omega⟩
    obtain ⟨t, ht, hcells⟩ := hrunning (n := n) (by omega)
    obtain ⟨u, hstep, -, hcompletes⟩ := hcells.step_next hb hin hadmit
    obtain ⟨heq, hframe⟩ := hcompletes hlast
    refine ⟨u, ?_, heq, ?_, hframe⟩
    · rw [← hlast]
      exact (run_succ (M := core) ht).trans hstep
    · rw [heq]
      exact hcode

/-! ## Every job ends -/

/-- How many pending moves stand before the engine's next turn. A poll is counted as the last of
them: while a job runs it puts an engine turn behind itself. -/
def movesBeforeEngine : List Input → Nat
  | [] => 0
  | .engine :: _ => 0
  | .waitIdle :: _ => 1
  | _ :: rest => movesBeforeEngine rest + 1

theorem movesBeforeEngine_cons {x : Input} (hengine : x ≠ .engine) (hidle : x ≠ .waitIdle)
    (rest : List Input) : movesBeforeEngine (x :: rest) = movesBeforeEngine rest + 1 := by
  cases x
  case engine => exact absurd rfl hengine
  case waitIdle => exact absurd rfl hidle
  all_goals rfl

/-- A cell step after which the job still runs has written a cell. -/
theorem cellsLeft_lt_of_cellStep {s t : State} (hrun : RunOk s) (h : cellStep s = .next t)
    (hb : t.busy = true) : cellsLeft t < cellsLeft s := by
  obtain ⟨-, hrow, hcol, -⟩ := hrun
  have hcount := rank_lt_count hrow hcol
  have hends := cellStep_cases s
  rw [h] at hends
  cases hends with
  | wrote v hv ha hm =>
    obtain ⟨hnext, -⟩ := rank_nextPos hcol
    unfold cellsLeft
    rw [finishCell_job, finishCell_pos]
    omega
  | aborted he => cases hb

/-- Every step after which the job still runs brings its end nearer: a cell less is left, or no more
cells and a move less before the engine's next turn. -/
theorem step_brings_end_nearer {s t : State} (hs : Legal s) (hb : s.busy = true)
    (h : step s = .next t) (hbt : t.busy = true) :
    cellsLeft t < cellsLeft s ∨
      cellsLeft t = cellsLeft s ∧ movesBeforeEngine t.inputs < movesBeforeEngine s.inputs := by
  obtain ⟨-, -, hrun, -⟩ := hs
  have hrun := hrun hb
  rcases hin : s.inputs with _ | ⟨x, rest⟩
  · rw [step_nil hin, engineTurn_busy hb] at h
    exact .inl (cellsLeft_lt_of_cellStep hrun h hbt)
  by_cases hengine : x = .engine
  · subst hengine
    rw [step_engine hin, engineTurn_busy (s := { s with inputs := rest }) hb] at h
    exact .inl (cellsLeft_lt_of_cellStep (s := { s with inputs := rest }) hrun h hbt)
  by_cases hirq : x = .waitIrq
  · subst hirq
    rw [step_waitIrq hin] at h
    unfold runWaitIrq at h
    split at h
    · cases h
      exact .inr ⟨rfl, Nat.lt_succ_self _⟩
    · rw [engineTurn_busy hb] at h
      exact .inl (cellsLeft_lt_of_cellStep hrun h hbt)
  by_cases hreset : x = .reset
  · subst hreset
    simp only [step, hin] at h
    cases h
    cases hbt
  obtain ⟨⟨-, hjob, hpos, -⟩, hinputs⟩ := hostMove_keeps_running hin hb hreset hengine hirq h
  refine .inr ⟨by rw [cellsLeft, hjob, hpos, cellsLeft], ?_⟩
  rw [hinputs]
  by_cases hidle : x = .waitIdle
  · rw [if_pos hidle, hidle]
    exact Nat.zero_lt_one
  · rw [if_neg hidle, movesBeforeEngine_cons hengine hidle]
    exact Nat.lt_succ_self _

/-- A legal running job's step goes on or is refused for interference. -/
theorem step_goes_on_or_refused {s : State} (hs : Legal s) :
    (∃ t, step s = .next t) ∨ step s = .refused .hostInterference := by
  cases h : step s with
  | next t => exact .inl ⟨t, rfl⟩
  | fault f => exact absurd h (legalStatesNeverFault s f hs)
  | refused r =>
    obtain ⟨rfl, -⟩ := (onlyInterferenceIsRefused s r).mp h
    exact .inr rfl

/-- A run's first step, for any machine. -/
theorem run_succ_of_step {M : Host.Core} {s t : M.State} (h : M.step s = .next t) (n : Nat) :
    M.run (n + 1) s = M.run n t := by
  simp only [Host.Core.run, h]

theorem run_one_of_refused {M : Host.Core} {s : M.State} {r : M.Refusal}
    (h : M.step s = .refused r) : M.run 1 s = .refused r := by
  simp only [Host.Core.run, h]

/-- A running job ends, by induction on the cells left and the moves before the engine's next turn.
-/
theorem exists_run_ends (s : State) (hs : Legal s) (hb : s.busy = true) :
    ∃ n, (∃ t : State, core.run n s = .next t ∧ t.busy = false) ∨
      core.run n s = .refused .hostInterference := by
  rcases step_goes_on_or_refused hs with ⟨t, hstep⟩ | hrefused
  · cases hbt : t.busy with
    | false => exact ⟨1, .inl ⟨t, run_succ_of_step (M := core) hstep 0, hbt⟩⟩
    | true =>
      have hnearer := step_brings_end_nearer hs hb hstep hbt
      obtain ⟨n, hn⟩ := exists_run_ends t (stepKeepsLegal s t hs hstep) hbt
      exact ⟨n + 1, by rwa [run_succ_of_step (M := core) hstep n]⟩
  · exact ⟨1, .inr (run_one_of_refused (M := core) hrefused)⟩
termination_by (cellsLeft s, movesBeforeEngine s.inputs)
decreasing_by
  rcases hnearer with hcell | ⟨hsame, hmove⟩
  · exact .left _ _ hcell
  · rw [hsame]
    exact .right _ hmove

/-- Settles O45, from any number of pending moves. -/
theorem everyJobEnds : Obligations.EveryJobEnds := exists_run_ends

end Sys2Proof.Machine
end

section
/-! SUPPORT. The values of the datapath: the sum over a window against its centre, the cells where
the clip unit changes nothing, and the widths of every intermediate value
(spec/42_filter_commands.md R180 to R194). -/

namespace Sys2Proof.Machine

/-! ## The datapath and the source -/

/-- Settles O34: a cell without a bus error has a value, and that is the one of the source's filter.
-/
theorem cellValueIsTheSourceFilter : Obligations.CellValueIsTheSourceFilter := by
  intro s hs hb hno
  obtain ⟨-, -, hrun, -⟩ := hs
  obtain ⟨⟨v, hv⟩, -⟩ := (not_cellBusError_iff (hrun hb)).mp hno
  exact ⟨v, hv, cellValue_toNat (hrun hb) hv⟩

/-- Settles O35: both clamp the integer part of N / D. -/
theorem clipUnitIsTheSourceQuantizer : Obligations.ClipUnitIsTheSourceQuantizer :=
  fun n _ hd => quantize_toNat_eq_sourceQuantize n hd

/-! ## The clip unit on quotients that fit a byte -/

/-- The clip unit leaves a quotient from 0 to 255 as it is. -/
theorem quantize_toNat_of_le {n d : Nat} (h : n / d ≤ 255) : (quantize n d).toNat = n / d := by
  rw [quantize_toNat, ← Int.natCast_ediv]
  generalize n / d = q at h
  rw [clamp, if_neg (by omega), if_neg (by omega), Int.toNat_natCast]

theorem quantize_mul_toNat {d : Int} (hd : 0 < d) (b : Byte) : quantize (d * b.toNat) d = b := by
  have hb := b.isLt
  refine BitVec.eq_of_toNat_eq ?_
  rw [quantize_toNat, Int.mul_ediv_cancel_left _ hd.ne', clamp, if_neg (by omega),
    if_neg (by omega), Int.toNat_natCast]

theorem quantize_mul_mul {c : Int} (hc : 0 < c) (n d : Int) :
    quantize (c * n) (c * d) = quantize n d := by
  rw [quantize, Int.mul_ediv_mul_of_pos n d hc, quantize]

/-! ## The accumulator -/

/-- in(i, j), the input sample that stands at a coordinate (00_scope.md R12). -/
def inputSample (s : State) (x : Coord) : Byte := s.mem.get (s.job.inAddr x.row x.col)

theorem readInput_eq_inputSample {s : State} {x : Coord} {v : Byte}
    (h : readInput s x = .value v) : v = inputSample s x := by
  obtain ⟨-, -, hv⟩ := (memRead_value_iff ..).mp h
  exact hv

theorem inputSample_toNat_le (s : State) (x : Coord) : (inputSample s x).toNat ≤ 255 :=
  Nat.le_of_lt_succ (inputSample s x).isLt

theorem accumulate_eq_sum {s : State} {x : Coord} {n : Nat} (h : accumulate s x = .value n) :
    n = ((window s.job x).map fun y => (inputSample s y).toNat).sum :=
  (sumInputs_value h).2

theorem sum_inputSample_le (s : State) (l : List Coord) :
    (l.map fun y => (inputSample s y).toNat).sum ≤ 255 * l.length := by
  have hle := List.sum_le_card_nsmul (l.map fun y => (inputSample s y).toNat) 255 fun v hv => by
    obtain ⟨y, -, rfl⟩ := List.mem_map.mp hv
    exact inputSample_toNat_le s y
  rwa [List.length_map, smul_eq_mul, Nat.mul_comm] at hle

/-- A window has one coordinate for each kernel offset inside the plane, so at most K². -/
theorem window_length_le (j : Job) (x : Coord) : (window j x).length ≤ j.k * j.k := by
  have hrow : ∀ m, ((List.range j.k).filterMap fun n => neighbour j x m n).length ≤ j.k :=
    fun m => (List.length_filterMap_le ..).trans_eq List.length_range
  have hle := List.sum_le_card_nsmul ((List.range j.k).map fun m =>
    ((List.range j.k).filterMap fun n => neighbour j x m n).length) j.k fun v hv => by
      obtain ⟨m, -, rfl⟩ := List.mem_map.mp hv
      exact hrow m
  rwa [List.length_map, List.length_range, smul_eq_mul, ← List.length_flatMap] at hle

theorem accumulate_le {s : State} {x : Coord} {n : Nat} (h : accumulate s x = .value n) :
    n ≤ 255 * (s.job.k * s.job.k) := by
  have hsum := sum_inputSample_le s (window s.job x)
  have hlen := window_length_le s.job x
  have hn := accumulate_eq_sum h
  omega

/-- The sum at a coordinate of the plane is its own sample and at most K² - 1 others. -/
theorem accumulate_centre_bounds {s : State} {x : Coord} {n : Nat}
    (hk : s.job.k = 2 * s.job.r + 1) (hrow : x.row < s.job.h.toNat)
    (hcol : x.col < s.job.w.toNat) (h : accumulate s x = .value n) :
    (inputSample s x).toNat ≤ n ∧
      n + 255 ≤ (inputSample s x).toNat + 255 * (s.job.k * s.job.k) := by
  have hcentre : x ∈ window s.job x := (mem_window_iff hk x x).mpr (.self hrow hcol)
  have hsplit := List.sum_map_erase (fun y => (inputSample s y).toNat) hcentre
  have hothers := sum_inputSample_le s ((window s.job x).erase x)
  rw [List.length_erase_of_mem hcentre] at hothers
  have hpos := List.length_pos_of_mem hcentre
  have hlen := window_length_le s.job x
  have hn := accumulate_eq_sum h
  constructor <;> omega

/-- With K = 1 the sum is the cell's own sample. -/
theorem accumulate_of_side_one {s : State} {x : Coord} {n : Nat} (hk : s.job.k = 2 * s.job.r + 1)
    (hone : s.job.k = 1) (hrow : x.row < s.job.h.toNat) (hcol : x.col < s.job.w.toNat)
    (h : accumulate s x = .value n) : n = s.job.k * s.job.k * (inputSample s x).toNat := by
  obtain ⟨hlo, hhi⟩ := accumulate_centre_bounds hk hrow hcol h
  rw [hone] at hhi ⊢
  omega

/-- Where the whole window is inside a plane of one value, the sum is K² times that value. -/
theorem accumulate_of_uniform {s : State} {x : Coord} {u : Byte} {n : Nat}
    (hk : s.job.k = 2 * s.job.r + 1)
    (hu : ∀ y : Coord, y.row < s.job.h.toNat → y.col < s.job.w.toNat → inputSample s y = u)
    (hrow : s.job.r ≤ x.row) (hrow' : x.row + s.job.r < s.job.h.toNat)
    (hcol : s.job.r ≤ x.col) (hcol' : x.col + s.job.r < s.job.w.toNat)
    (h : accumulate s x = .value n) : n = s.job.k * s.job.k * u.toNat := by
  have hterm : ∀ a ∈ Finset.range s.job.k, ∀ b ∈ Finset.range s.job.k,
      ((neighbour s.job x a b).map fun y => (inputSample s y).toNat).getD 0 = u.toNat := by
    intro a ha b hb
    rw [Finset.mem_range] at ha hb
    rw [neighbour_eq, if_pos (by omega), Option.map_some, Option.getD_some,
      hu _ (by simp only; omega) (by simp only; omega)]
  rw [accumulate_eq_sum h, sum_map_window,
    Finset.sum_congr rfl fun a ha => Finset.sum_congr rfl (hterm a ha)]
  simp only [Finset.sum_const, Finset.card_range, smul_eq_mul, Nat.mul_assoc]

/-- Settles O36: the window's centre is one of the samples summed. -/
theorem accumulatorIsTheWindowSum : Obligations.AccumulatorIsTheWindowSum := by
  intro s x n h
  refine ⟨accumulate_eq_windowSum h, fun hop ⟨_, hodd⟩ hrow hcol => ?_⟩
  obtain ⟨hk, -⟩ := hodd hop
  obtain ⟨hcentre, -⟩ := accumulate_centre_bounds hk hrow hcol h
  exact hcentre

/-! ## The values of BOX and SHARPEN -/

theorem cellBox_of_accumulate {s : State} {x : Coord} {n : Nat} (h : accumulate s x = .value n) :
    cellBox s x = .value (quantize n ((s.job.k : Int) * s.job.k)) := by
  simp only [cellBox, h]

theorem cellBox_eq_value {s : State} {x : Coord} {v : Byte} (h : cellBox s x = .value v) :
    ∃ n, accumulate s x = .value n ∧ v = quantize n ((s.job.k : Int) * s.job.k) := by
  obtain ⟨n, hn⟩ := (cellBox_value_iff s x).mp ⟨v, h⟩
  rw [cellBox_of_accumulate hn] at h
  exact ⟨n, hn, (MemOutcome.value.inj h).symm⟩

theorem cellSharpen_eq_value {s : State} {x : Coord} {v : Byte} (h : cellSharpen s x = .value v) :
    ∃ n, accumulate s x = .value n ∧
      v = quantize (sharpenNumerator s.job (inputSample s x) n) (sharpenDenominator s.job) := by
  obtain ⟨⟨b, hb⟩, n, hn⟩ := (cellSharpen_value_iff s x).mp ⟨v, h⟩
  simp only [cellSharpen, hb, hn, MemOutcome.value.injEq] at h
  rw [readInput_eq_inputSample hb] at h
  exact ⟨n, hn, h.symm⟩

theorem sharpenDenominator_pos {j : Job} (hk : 0 < j.k) : 0 < sharpenDenominator j := by
  unfold sharpenDenominator
  positivity

/-- A sum that is K² times one sample gives that sample. -/
theorem quantize_of_sum_eq {k : Nat} (hk : 0 < k) {n : Nat} {b : Byte}
    (hn : n = k * k * b.toNat) : quantize n ((k : Int) * k) = b := by
  rw [hn]
  push_cast
  exact quantize_mul_toNat (by positivity) b

/-- SHARPEN gives the centre sample where λ or the deviation from the mean is zero. -/
theorem quantize_sharpen_eq_centre {j : Job} (hk : 0 < j.k) {b : Byte} {n : Nat}
    (h : j.l = 0 ∨ n = j.k * j.k * b.toNat) :
    quantize (sharpenNumerator j b n) (sharpenDenominator j) = b := by
  have hzero : j.l * ((j.k : Int) * j.k * b.toNat - n) = 0 := by
    rcases h with hl | rfl
    · rw [hl, zero_mul]
    · push_cast
      rw [sub_self, mul_zero]
  have hnum : sharpenNumerator j b n = sharpenDenominator j * b.toNat := by
    rw [sharpenNumerator, hzero, add_zero, sharpenDenominator]
  rw [hnum, quantize_mul_toNat (sharpenDenominator_pos hk)]

/-- With λ = -1 the centre sample cancels and SHARPEN divides the sum by K². -/
theorem quantize_sharpen_of_minus_one {j : Job} (hl : j.l = -65536) (b : Byte) (n : Nat) :
    quantize (sharpenNumerator j b n) (sharpenDenominator j) = quantize n ((j.k : Int) * j.k) := by
  have hnum : sharpenNumerator j b n = 2 ^ 16 * n := by
    rw [sharpenNumerator, hl]
    ring
  rw [hnum, sharpenDenominator, quantize_mul_mul (by norm_num)]

/-- Settles O37: at most K² samples of at most 255 each. -/
theorem clipNeverChangesABoxResult : Obligations.ClipNeverChangesABoxResult := by
  intro s x n _ _ h
  have hle := accumulate_le h
  refine ⟨hle, _, cellBox_of_accumulate h, ?_⟩
  rw [← Int.natCast_mul]
  exact quantize_toNat_of_le (Nat.div_le_of_le_mul (by rwa [Nat.mul_comm]))

/-- Settles O38: λ = 0 removes the deviation from the mean, K = 1 makes it zero, and λ = -1 leaves
the mean. -/
theorem sharpenCorners : Obligations.SharpenCorners := by
  rintro s x v ⟨-, hodd⟩ hop hrow hcol
  obtain ⟨hk, -⟩ := hodd hop
  have hpos : 0 < s.job.k := by omega
  refine ⟨fun hl h => ?_, fun hone h => ?_, fun hone h => ?_, fun hl h => ?_⟩
  · obtain ⟨n, -, rfl⟩ := cellSharpen_eq_value h
    exact quantize_sharpen_eq_centre hpos (.inl hl)
  · obtain ⟨n, hn, rfl⟩ := cellSharpen_eq_value h
    exact quantize_sharpen_eq_centre hpos (.inr (accumulate_of_side_one hk hone hrow hcol hn))
  · obtain ⟨n, hn, rfl⟩ := cellBox_eq_value h
    exact quantize_of_sum_eq hpos (accumulate_of_side_one hk hone hrow hcol hn)
  · obtain ⟨n, hn, rfl⟩ := cellSharpen_eq_value h
    rw [quantize_sharpen_of_minus_one hl, cellBox_of_accumulate hn]

/-- Settles O39: in the interior the sum is K² times the plane's one value. -/
theorem uniformInteriorIsFixed : Obligations.UniformInteriorIsFixed := by
  rintro s x u v ⟨-, hodd⟩ hop hu hrow hrow' hcol hcol'
  obtain ⟨hk, -⟩ := hodd hop
  have hpos : 0 < s.job.k := by omega
  have hcentre : inputSample s x = u := hu x.row x.col (by omega) (by omega)
  have hsum : ∀ n, accumulate s x = .value n → n = s.job.k * s.job.k * u.toNat := fun n hn =>
    accumulate_of_uniform hk (fun y => hu y.row y.col) hrow hrow' hcol hcol' hn
  constructor
  · intro h
    obtain ⟨n, hn, rfl⟩ := cellBox_eq_value h
    exact quantize_of_sum_eq hpos (hsum n hn)
  · intro h
    obtain ⟨n, hn, rfl⟩ := cellSharpen_eq_value h
    rw [hcentre]
    exact quantize_sharpen_eq_centre hpos (.inr (hsum n hn))

/-! ## The widths of the datapath -/

/-- N of the recurrence, from three output samples and one input sample of a byte each. -/
theorem iirNumerator_bounds (s : State) (x : Coord) (b : Byte) :
    -20655 ≤ iirNumerator s x b ∧ iirNumerator s x b ≤ 46155 := by
  have hb := b.isLt
  have hup := (historyGet s (x.row - 1) x.col).isLt
  have hleft := (historyGet s x.row (x.col - 1)).isLt
  have hcorner := (historyGet s (x.row - 1) (x.col - 1)).isLt
  simp only [iirNumerator, Config.iirA, Config.iirB, Config.iirC]
  split_ifs <;> omega

/-- The deviation of the centre from the mean, times K²: the other samples move it by at most 255
each. -/
theorem abs_deviation_le {k2 b n : Int} (hk : 1 ≤ k2) (hb : 0 ≤ b) (hb' : b ≤ 255) (hlo : b ≤ n)
    (hhi : n + 255 ≤ b + 255 * k2) : |k2 * b - n| ≤ 255 * (k2 - 1) := by
  have hnonneg : 0 ≤ (k2 - 1) * b := mul_nonneg (by omega) hb
  have hle : (k2 - 1) * b ≤ (k2 - 1) * 255 := mul_le_mul_of_nonneg_left hb' (by omega)
  rw [abs_le]
  constructor <;> linarith

theorem side_sq_bounds {k : Nat} (hk : 1 ≤ k) (hk' : k ≤ 255) :
    1 ≤ (k : Int) * k ∧ (k : Int) * k ≤ 65025 := by
  have hlo : 1 * 1 ≤ k * k := Nat.mul_le_mul hk hk
  have hhi : k * k ≤ 255 * 255 := Nat.mul_le_mul hk' hk'
  exact_mod_cast And.intro hlo hhi

/-- A sample scaled by 2^16 K² fits 40 bits. -/
theorem scaled_sample_lt {k2 : Int} (hk : k2 ≤ 65025) (b : Byte) :
    2 ^ 16 * k2 * b.toNat < 2 ^ 40 := by
  have hb := b.isLt
  have hle : k2 * b.toNat ≤ 65025 * 255 := mul_le_mul hk (by omega) (by omega) (by norm_num)
  linarith

/-- N of SHARPEN is a product below 2^40 and one of at most 2^31 * 16581120. -/
theorem abs_sharpenNumerator_lt {j : Job} {b : Byte} {n : Nat} (hl : |j.l| ≤ 2 ^ 31)
    (hprod : 2 ^ 16 * ((j.k : Int) * j.k) * b.toNat < 2 ^ 40)
    (hdev : |(j.k : Int) * j.k * b.toNat - n| ≤ 16581120) :
    |sharpenNumerator j b n| < 2 ^ 56 := by
  have hnonneg : (0 : Int) ≤ 2 ^ 16 * ((j.k : Int) * j.k) * b.toNat := by positivity
  calc |sharpenNumerator j b n|
      ≤ |2 ^ 16 * ((j.k : Int) * j.k) * b.toNat|
          + |j.l * ((j.k : Int) * j.k * b.toNat - n)| := abs_add_le _ _
    _ = 2 ^ 16 * ((j.k : Int) * j.k) * b.toNat
          + |j.l| * |(j.k : Int) * j.k * b.toNat - n| := by rw [abs_of_nonneg hnonneg, abs_mul]
    _ < 2 ^ 40 + 2 ^ 31 * 16581120 :=
        add_lt_add_of_lt_of_le hprod (mul_le_mul hl hdev (abs_nonneg _) (by norm_num))
    _ < 2 ^ 56 := by norm_num

/-- Settles O40: every bound follows from K² <= 65025, samples of a byte and λ of 32 bits. -/
theorem datapathWidthsSuffice : Obligations.DatapathWidthsSuffice := by
  rintro s x b n ⟨-, -, -, -, -, ⟨-, hodd⟩, hl, hl'⟩
  refine ⟨iirNumerator_bounds s x b, fun hop hrow hcol h hb => ?_⟩
  obtain ⟨hk, hk255⟩ := hodd hop
  obtain ⟨hk2pos, hk2⟩ := side_sq_bounds (by omega) hk255
  obtain ⟨hlo, hhi⟩ := accumulate_centre_bounds hk hrow hcol h
  have hb255 := inputSample_toNat_le s x
  rw [show inputSample s x = b from hb.symm] at hlo hhi hb255
  have hhi' : (n : Int) + 255 ≤ b.toNat + 255 * ((s.job.k : Int) * s.job.k) := by
    exact_mod_cast hhi
  have hdev : |(s.job.k : Int) * s.job.k * b.toNat - n| ≤ 255 * ((s.job.k : Int) * s.job.k - 1) :=
    abs_deviation_le hk2pos (by omega) (by omega) (by omega) hhi'
  have hlam : |s.job.l| ≤ 2 ^ 31 := abs_le.mpr ⟨by omega, by omega⟩
  have hprod := scaled_sample_lt hk2 b
  have hsum := accumulate_le h
  refine ⟨?_, hk2, hdev, by omega, hlam, hprod, ?_, ?_, ?_⟩
  · zify at hsum
    omega
  · exact abs_sharpenNumerator_lt hlam hprod (by omega)
  · exact sharpenDenominator_pos (by omega)
  · unfold sharpenDenominator
    omega

end Sys2Proof.Machine
end

section
/-! SUPPORT. The interrupt output over a command, the end of a job and an acknowledge
(spec/60_exceptions.md R230, R231; spec/41_command_sequencer.md R157). -/

namespace Sys2Proof.Machine

/-! ## irq as a level -/

theorem irq_eq_true_iff (s : State) :
    irq s = true ↔ s.irqEn = true ∧ (s.done = true ∨ s.err = true) := by
  simp only [irq, Bool.and_eq_true, Bool.or_eq_true]

theorem irq_eq_false {s : State} (hdone : s.done = false) (herr : s.err = false) :
    irq s = false := by
  simp only [irq, hdone, herr, Bool.or_self, Bool.and_false]

/-! ## irq over Command(v) -/

/-- A command that raises BUSY was accepted, which clears DONE and ERR. -/
theorem irq_command_of_rises {v : Word} {s : State} (hs : s.busy = false)
    (ht : (command v s).busy = true) : irq (command v s) = false := by
  rcases command_cases v s with ⟨c, -, he⟩ | ⟨op, k, -, he⟩
  · rw [he, cmdError_busy, hs] at ht
    cases ht
  · rw [he]
    exact irq_eq_false (accept_done ..) (accept_err ..)

/-- A command that does not raise BUSY was rejected, which sets ERR. -/
theorem irq_command_of_not_rises {v : Word} {s : State}
    (h : ¬(s.busy = false ∧ (command v s).busy = true)) (hen : s.irqEn = true) :
    irq (command v s) = true := by
  rcases command_cases v s with ⟨c, -, he⟩ | ⟨op, k, hok, he⟩
  · rw [he]
    exact (irq_eq_true_iff _).mpr ⟨hen, .inr (cmdError_err c s)⟩
  · obtain ⟨hidle, -⟩ := checkCommand_ok hok
    exact absurd ⟨hidle, by rw [he, accept_busy]⟩ h

/-! ## irq over the end of a job -/

/-- A cell step that ends the job, by completing it or by aborting it, sets DONE. -/
theorem irq_of_cellStep_ends {s t : State} (h : cellStep s = .next t) (hs : s.busy = true)
    (ht : t.busy = false) (hen : s.irqEn = true) : irq t = true := by
  have hends := cellStep_cases s
  rw [h] at hends
  cases hends with
  | wrote v hv ha hm =>
    rcases finishCell_cases s (s.mem.set (s.job.outAddr s.pos.row s.pos.col) v) v with
      ⟨-, he⟩ | ⟨-, he⟩
    · rw [he, hs] at ht
      cases ht
    · rw [he]
      exact (irq_eq_true_iff _).mpr ⟨hen, .inl rfl⟩
  | aborted _ => exact (irq_eq_true_iff _).mpr ⟨hen, .inl (jobAbort_done ..)⟩

/-! ## irq over an acknowledge -/

/-- Bits 1 and 2 of a written STATUS word clear both of irq's causes. -/
theorem irq_clearStatus {v : Word} (h1 : v.getLsbD 1 = true) (h2 : v.getLsbD 2 = true) (s : State) :
    irq (clearStatus v s) = false :=
  irq_eq_false (by rw [clearStatus_done, h1, Bool.not_true, Bool.and_false])
    (by rw [clearStatus_err, h2, Bool.not_true, Bool.and_false])

/-- Settles O31: the operation that raises BUSY is an accepted command, the engine's turn is a cell
step, a write of CMD runs Command(v), and 6 has bits 1 and 2 set. -/
theorem irqFollowsTheJob : Obligations.IrqFollowsTheJob := by
  intro s t
  refine ⟨fun i h hs ht => ?_, fun h hs ht hen => ?_, fun v h hrises hen => ?_, fun h => ?_⟩
  · rcases exec_command_or_keeps_busy h with ⟨-, -, rfl⟩ | hsame
    · exact irq_command_of_rises hs ht
    · rw [ht, hs] at hsame
      cases hsame
  · rw [engineTurn_busy hs] at h
    exact irq_of_cellStep_ends h hs ht hen
  · rw [exec_decodeCmd] at h
    cases h
    exact irq_command_of_not_rises hrises hen
  · cases h
    exact irq_clearStatus (v := 6) (by decide) (by decide) s

end Sys2Proof.Machine
end

section
/-! SUPPORT. The block right after reset, and the platform's parameters over a step
(spec/70_reset_and_hazards.md R252, R253). -/

namespace Sys2Proof.Machine

/-! ## Right after reset -/

theorem engineTurn_idle {s : State} (hb : s.busy = false) : engineTurn s = .next s :=
  if_neg (by simp [hb])

/-- A command word of a filter row fails no check before that of the dimensions, so without a plane
it is rejected with code 5. -/
theorem completes_cmdWord_badDim {op : BitVec 2} {kind : FilterKind} {f : BitVec 8} {k : Nat}
    {s : State} (hb : s.busy = false) (hdim : s.width.toNat = 0 ∨ s.height.toNat = 0)
    (hkind : kindOfOp op = some kind) (hk : resolveK kind f = .ok k) :
    Completes (.wrCmd (cmdWord op f)) s
      { s with err := true, errCode := 5#4, answer := .done } := by
  obtain ⟨h0, h1, hop⟩ := cmdWord_fields op f
  have hchecks : checkCommand (cmdWord op f) s = .error .badDim :=
    checkCommand_planes_error hb h0 h1 (by rw [hop, hkind]) (by rw [wordFsize_cmdWord, hk])
      (checkPlanes_badDim kind hdim)
  exact completes_wrCmd_of_error hchecks

/-- Settles O54: reset leaves the engine idle and WIDTH at 0, so each of these words fails the check
of the dimensions. -/
theorem commandRightAfterResetIsBadDim : Obligations.CommandRightAfterResetIsBadDim := by
  intro s t rest hin hstep
  obtain ⟨u, hu, hidle, -, -, -, -, -, -, hwidth, -⟩ := resetClearsTheBlock s rest hin
  obtain rfl : u = t := Host.Outcome.next.inj (hu.symm.trans hstep)
  have hdim : u.width.toNat = 0 ∨ u.height.toNat = 0 := .inl (by rw [hwidth]; rfl)
  refine ⟨engineTurn_idle hidle, ?_⟩
  rintro i (rfl | ⟨f, hf, hi⟩)
  · exact completes_cmdWord_badDim (op := 0b00#2) (f := 0) hidle hdim rfl rfl
  · obtain ⟨hbox, hsharpen⟩ := resolveK_of_zero_or_odd hf
    rcases hi with rfl | rfl
    · exact completes_cmdWord_badDim (op := 0b01#2) hidle hdim rfl hbox
    · exact completes_cmdWord_badDim (op := 0b10#2) hidle hdim rfl hsharpen

/-! ## The platform -/

theorem HostSideOnly.platform_eq {s t : State} (h : HostSideOnly s t) : t.platform = s.platform := by
  rw [h]

theorem finishCell_platform (s : State) (m : Memory) (v : Byte) :
    (finishCell s m v).platform = s.platform := by
  rcases finishCell_cases s m v with ⟨-, he⟩ | ⟨-, he⟩ <;> rw [he]

/-- Writing a cell and aborting its job both leave the platform alone. -/
theorem cellStep_platform {s t : State} (h : cellStep s = .next t) : t.platform = s.platform := by
  have hends := cellStep_cases s
  rw [h] at hends
  cases hends with
  | wrote v hv ha hm => exact finishCell_platform ..
  | aborted he => exact jobAbort_platform ..

/-- Settles O56, by the ways a step goes on: reset too takes the platform over. -/
theorem platformNeverChanges : Obligations.PlatformNeverChanges := by
  intro s t h
  cases step_cases h with
  | hostSide h => exact h.platform_eq
  | operation a rest o hin hsel h =>
    obtain ⟨-, hplatform, -⟩ := exec_keeps h
    exact hplatform
  | agentWrote a v rest hin hplanes h => rw [h]
  | cell rest hb h => exact cellStep_platform (s := { s with inputs := rest }) h
  | reset rest hin h => rw [h]; rfl

end Sys2Proof.Machine
end
